-- ==== Sys2Proof/Config.lean ====
section
/-! DEFINITION. The fixed parameters of the block (00_scope.md R7, 92_eei_decisions.md D32), each a named
constant the model's types and operations are written with: "fixed, not runtime-configurable".
SETTLE_TIME belongs to the Debouncer, which R5 leaves out.
The spec leaves no value open that an operation computes with, so there is no free value here
(NOTES.md, Assumptions). -/

namespace Sys2Proof.Config

/-- TIME_WIDTH, bits: the width of the clock and of every timestamp (R7, 90_conflicts.md C7). -/
abbrev timeWidth : Nat := 32

/-- HEADER_WIDTH, bits: the width of a header byte and of the dirty header (R7, R48). -/
abbrev headerWidth : Nat := 8

/-- MIN_INTERVAL, ms: the hard floor between frames (R7, R82 step 1). -/
abbrev minInterval : Nat := 20

/-- ANALOG_INTERVAL, ms: the floor for analog-only changes (R7, R82 step 3). -/
abbrev analogInterval : Nat := 50

/-- MAX_INTERVAL, ms: the heartbeat threshold (R7, R82 step 2). -/
abbrev maxInterval : Nat := 800

/-- PACKET_TIMEOUT, ms: the gap that forces a resync (R7, R92). -/
abbrev packetTimeout : Nat := 2

/-- CONNECTION_TIMEOUT, ms: the link is up while less has elapsed (R7, R99). -/
abbrev connectionTimeout : Nat := 1000

/-- EPS, value units: the analog change threshold (R7, R67). -/
abbrev eps : Rat := 3 / 1000

/-- JOY_SCALE = 127.5, byte per value unit (R7, R63, R65). -/
abbrev joyScale : Rat := 255 / 2

/-- TRIG_SCALE = 255, byte per value unit (R7, R64, R66). -/
abbrev trigScale : Rat := 255

/-- MAX_PACKET, bytes: one header and eight data bytes (R7, R55). -/
abbrev maxPacket : Nat := 9

/-- MIN_PACKET, bytes: a header alone (R7, R55). -/
abbrev minPacket : Nat := 1

/-- N_GROUPS: the header-selected field groups (R7, R11). -/
abbrev nGroups : Nat := 6

/-- N_TARGETS: the fields a data byte can go to (R7, R11). -/
abbrev nTargets : Nat := 8

/-- The largest button id that names a button; 6 and 7 are reserved (R11, R57, R60). -/
abbrev maxButton : Nat := 5

end Sys2Proof.Config
end

