-- ==== Sys2Proof/Word.lean ====
section
/-! DEFINITION. The word types of the block (00_scope.md R9): bytes, the host command word, the clock,
the four-bit counters of the parser and the exact analog values. -/

namespace Sys2Proof

/-- `u8`: a wire byte, a button byte, a click mask (R8, R9). -/
abbrev Byte := BitVec 8

/-- A header byte, on the wire or as the dirty header (R7 HEADER_WIDTH = 8, R18, R48); on the wire it is a byte. -/
abbrev Header := BitVec Config.headerWidth

/-- The 16-bit host command word (30_encoding.md R57). -/
abbrev CmdWord := BitVec 16

/-- `u32`: a clock value or a timestamp in milliseconds (R7 TIME_WIDTH = 32, R10, 90_conflicts.md C7). -/
abbrev Time := BitVec Config.timeWidth

/-- `u4`: the parser's counters `numBytes` and `curByte` (10_state.md R26, R27). -/
abbrev U4 := BitVec 4

/-- An analog value: an exact rational number, no rounding (R9, 92_eei_decisions.md D3). -/
abbrev Analog := Rat

end Sys2Proof
end

