-- ==== Sys2Proof/Syntax.lean ====
section
/-! DEFINITION. The syntax: the enumerations of 00_scope.md R11, one constructor of `Instr` for every row of
spec/opcode_table.json, and the inputs a host can give (30_encoding.md R57, 70_reset_and_hazards.md R121). -/

namespace Sys2Proof

/-- Side `s`: L = 0, R = 1 (R11). -/
inductive Side where
  | left
  | right
  deriving DecidableEq, Repr

/-- Axis `a`: X = 0, Y = 1 (R11). -/
inductive Axis where
  | x
  | y
  deriving DecidableEq, Repr

/-- The unit a reset input goes to: TX or RX (R121). -/
inductive UnitId where
  | tx
  | rx
  deriving DecidableEq, Repr

/-- Button `b` as the three-bit field holds it: 0 to 5 name a button, 6 and 7 are reserved (R11, R57). -/
abbrev ButtonId := BitVec 3

/-- Field group `g` (R11): the six header-selected parts of the control state. -/
inductive Group where
  | lj
  | rj
  | lt
  | rt
  | lb
  | rb
  deriving DecidableEq, Repr

/-- Target `t` (R11): the field one data byte goes to. -/
inductive Target where
  | jlx
  | jly
  | jrx
  | jry
  | tl
  | tr
  | bl
  | br
  deriving DecidableEq, Repr

/-- What a wire byte stands for at its place in the stream: a header, or a data byte of one of the
three kinds (R48, R51, R52, R53). The value of a byte never tells (R56). -/
inductive WireRole where
  | header
  | joy
  | trig
  | btn
  deriving DecidableEq, Repr

/-- The refusal reasons of 60_exceptions.md R108. -/
inductive RefuseReason where
  | reservedOpcode
  | reservedField
  | reservedButton
  | valueOutOfRange
  deriving DecidableEq, Repr

/-- One constructor per row of spec/opcode_table.json, in the table's order. -/
inductive Instr where
  /-- TX_SET_JOY s, a, V (R78). -/
  | txSetJoy (s : Side) (a : Axis) (v : Analog)
  /-- TX_SET_TRIG s, V (R79). -/
  | txSetTrig (s : Side) (v : Analog)
  /-- TX_SET_BTN s, b, p (R80). -/
  | txSetBtn (s : Side) (b : ButtonId) (p : Bool)
  /-- TX_UPDATE now (R82). -/
  | txUpdate (now : Time)
  /-- RX_POLL now, In (R93). -/
  | rxPoll (now : Time) (bytes : List Byte)
  /-- RX_CONNECTED now, In (R99). -/
  | rxConnected (now : Time) (bytes : List Byte)
  /-- RX_GET_JOY s, a (R100). -/
  | rxGetJoy (s : Side) (a : Axis)
  /-- RX_GET_TRIG s (R101). -/
  | rxGetTrig (s : Side)
  /-- RX_GET_BTN s, b (R102). -/
  | rxGetBtn (s : Side) (b : ButtonId)
  /-- RX_GET_CLICK s, b (R103). -/
  | rxGetClick (s : Side) (b : ButtonId)
  /-- The reserved opcode 0x0 with the word's other twelve bits (R60). -/
  | reservedOp0 (low : BitVec 12)
  /-- The reserved opcode 0x5 (R60). -/
  | reservedOp5 (low : BitVec 12)
  /-- The reserved opcode 0x6 (R60). -/
  | reservedOp6 (low : BitVec 12)
  /-- The reserved opcode 0x7 (R60). -/
  | reservedOp7 (low : BitVec 12)
  /-- The reserved opcode 0xE (R60). -/
  | reservedOpE (low : BitVec 12)
  /-- The reserved opcode 0xF (R60). -/
  | reservedOpF (low : BitVec 12)
  /-- A wire header byte (R48). -/
  | wireHeader (h : Header)
  /-- A one-group frame of LJ: a header with bit 0 as its only group bit, `unused` its bits 7:6, then JLX, JLY (R68). -/
  | frameGroupLJ (unused : BitVec 2) (jlx jly : Byte)
  /-- A one-group frame of RJ: header bit 1, then JRX, JRY (R68). -/
  | frameGroupRJ (unused : BitVec 2) (jrx jry : Byte)
  /-- A one-group frame of LT: header bit 2, then TL (R68). -/
  | frameGroupLT (unused : BitVec 2) (tl : Byte)
  /-- A one-group frame of RT: header bit 3, then TR (R68). -/
  | frameGroupRT (unused : BitVec 2) (tr : Byte)
  /-- A one-group frame of LB: header bit 4, then BL (R68). -/
  | frameGroupLB (unused : BitVec 2) (bl : Byte)
  /-- A one-group frame of RB: header bit 5, then BR (R68). -/
  | frameGroupRB (unused : BitVec 2) (br : Byte)
  /-- A joystick data byte (R51). -/
  | wireJoyByte (x : Byte)
  /-- A trigger data byte (R52). -/
  | wireTrigByte (x : Byte)
  /-- A button data byte (R53). -/
  | wireBtnByte (x : Byte)
  /-- SEND(now), internal to TX_UPDATE (R84). -/
  | send (now : Time)
  /-- FULLSEND(now), internal to TX_UPDATE (R85). -/
  | fullSend (now : Time)
  /-- HeaderStep(x), internal to RX_POLL (R94). -/
  | rxHeaderStep (x : Byte)
  /-- BodyStep(x), internal to RX_POLL (R95). -/
  | rxBodyStep (x : Byte)
  /-- RESET TX or RESET RX, an input of its own (R121). -/
  | reset (u : UnitId)
  deriving DecidableEq, Repr

/-- The pseudo-operations: the source's method names (30_encoding.md R62). -/
inductive Pseudo where
  /-- `setJoystick(s, x, y)`: both axes in one call. -/
  | setJoystick (s : Side) (x y : Analog)
  /-- `setTrigger(s, v)`. -/
  | setTrigger (s : Side) (v : Analog)
  /-- A setter of the `setButton` family. -/
  | setButton (s : Side) (b : ButtonId) (p : Bool)
  /-- A read of the joystick as a number. -/
  | joystick (s : Side) (a : Axis)
  /-- A read of the trigger as a number. -/
  | trigger (s : Side)
  /-- A named button accessor. -/
  | button (s : Side) (b : ButtonId)
  /-- A named click accessor, such as `joyButtonClick`. -/
  | buttonClick (s : Side) (b : ButtonId)
  deriving DecidableEq, Repr

/-- One input from the outside. A host issues a command word with its operands that are not bits, or a
reset (R57, R121, R135). `wire` hands RX bytes that it consumes at the instant of its last receive:
what one RX_POLL with that `now` does, one wire element a step (assumption 9). -/
inductive HostInput where
  | command (word : CmdWord) (v : Analog) (now : Time) (bytes : List Byte)
  | resetUnit (u : UnitId)
  | wire (bytes : List Byte)
  deriving DecidableEq, Repr

end Sys2Proof
end

