-- ==== Sys2Proof/WellFormed.lean ====
section
/-! DEFINITION. Which instructions are well formed: those the spec gives a meaning other than a refusal
(30_encoding.md R60, 60_exceptions.md R108). -/

namespace Sys2Proof

/-- A button field that names a button: 0 to 5 (R11, R60). -/
def ButtonId.wellFormed (b : ButtonId) : Bool := decide (b.toNat ≤ 5)

/-- An analog operand inside its domain, [-1, 1] for a joystick (R60, R78). -/
def Analog.inJoyDomain (v : Analog) : Bool := decide (-1 ≤ v ∧ v ≤ 1)

/-- An analog operand inside its domain, [0, 1] for a trigger (R60, R79). -/
def Analog.inTrigDomain (v : Analog) : Bool := decide (0 ≤ v ∧ v ≤ 1)

/-- No reserved opcode, no reserved button and no value outside its domain (R60). -/
def Instr.wellFormed : Instr → Bool
  | .txSetJoy _ _ v => Analog.inJoyDomain v
  | .txSetTrig _ v => Analog.inTrigDomain v
  | .txSetBtn _ b _ => ButtonId.wellFormed b
  | .txUpdate _ => true
  | .rxPoll _ _ => true
  | .rxConnected _ _ => true
  | .rxGetJoy _ _ => true
  | .rxGetTrig _ => true
  | .rxGetBtn _ b => ButtonId.wellFormed b
  | .rxGetClick _ b => ButtonId.wellFormed b
  | .reservedOp0 _ => false
  | .reservedOp5 _ => false
  | .reservedOp6 _ => false
  | .reservedOp7 _ => false
  | .reservedOpE _ => false
  | .reservedOpF _ => false
  | .wireHeader _ => true
  | .frameGroupLJ _ _ _ => true
  | .frameGroupRJ _ _ _ => true
  | .frameGroupLT _ _ => true
  | .frameGroupRT _ _ => true
  | .frameGroupLB _ _ => true
  | .frameGroupRB _ _ => true
  | .wireJoyByte _ => true
  | .wireTrigByte _ => true
  | .wireBtnByte _ => true
  | .send _ => true
  | .fullSend _ => true
  | .rxHeaderStep _ => true
  | .rxBodyStep _ => true
  | .reset _ => true

end Sys2Proof
end

