-- ==== Sys2Proof/Decode.lean ====
section
/-! DEFINITION. The decoder of command words (30_encoding.md R57 to R60) and of wire bytes (R47 to R56),
total on every word and every byte list, and after it the encoder, written from the same tables. -/

namespace Sys2Proof

/-- The code of a refusal reason (60_exceptions.md R108): where several apply, the lowest is recorded. -/
def RefuseReason.code : RefuseReason → Nat
  | .reservedOpcode => 1
  | .reservedField => 2
  | .reservedButton => 3
  | .valueOutOfRange => 4

/-- What the decoder answers: an instruction and the wire bytes after it, a refusal by its reason
(60_exceptions.md R108), or nothing to decode. -/
inductive Decoded where
  | instr (i : Instr) (rest : List Byte)
  | refused (r : RefuseReason)
  | empty
  deriving DecidableEq, Repr

/-! ### Command words -/

/-- Bits 15:12, the opcode (R57). -/
def opcodeField (w : CmdWord) : BitVec 4 := w.extractLsb' 12 4

/-- Bit 11, the side: 0 = L, 1 = R (R57, R59). -/
def sideField (w : CmdWord) : Side := if w.getLsbD 11 then .right else .left

/-- Bit 10, the axis: 0 = X, 1 = Y (R57, R59). -/
def axisField (w : CmdWord) : Axis := if w.getLsbD 10 then .y else .x

/-- Bits 9:7, the button (R57, R59). -/
def buttonField (w : CmdWord) : ButtonId := w.extractLsb' 7 3

/-- Bit 6: 1 = pressed (R57, R59). -/
def pressedField (w : CmdWord) : Bool := w.getLsbD 6

/-- Bits 11:0, which a reserved opcode leaves without a meaning (R58). -/
def lowField (w : CmdWord) : BitVec 12 := w.extractLsb' 0 12

/-- `i`, unless a bit that the opcode's pattern fixes at 0 (a 1 in `zeros`) is 1 in `w` (R60). -/
def withZeros (zeros w : CmdWord) (i : Instr) : Decoded :=
  if w &&& zeros = 0 then .instr i [] else .refused .reservedField

/-- A command word with its operands that are not bits (R58). The opcode alone decides which operands
exist (R59). Reserved buttons and values outside the domain are refused by the operation itself
(R78 to R80, R102, R103), reserved opcodes by the reserved operations. -/
def decodeCommand (w : CmdWord) (v : Analog) (now : Time) (bytes : List Byte) : Decoded :=
  match (opcodeField w).toNat with
  | 0x0 => .instr (.reservedOp0 (lowField w)) []
  | 0x1 => withZeros 0x03FF w (.txSetJoy (sideField w) (axisField w) v)
  | 0x2 => withZeros 0x07FF w (.txSetTrig (sideField w) v)
  | 0x3 => withZeros 0x043F w (.txSetBtn (sideField w) (buttonField w) (pressedField w))
  | 0x4 => withZeros 0x0FFF w (.txUpdate now)
  | 0x5 => .instr (.reservedOp5 (lowField w)) []
  | 0x6 => .instr (.reservedOp6 (lowField w)) []
  | 0x7 => .instr (.reservedOp7 (lowField w)) []
  | 0x8 => withZeros 0x0FFF w (.rxPoll now bytes)
  | 0x9 => withZeros 0x0FFF w (.rxConnected now bytes)
  | 0xA => withZeros 0x03FF w (.rxGetJoy (sideField w) (axisField w))
  | 0xB => withZeros 0x07FF w (.rxGetTrig (sideField w))
  | 0xC => withZeros 0x047F w (.rxGetBtn (sideField w) (buttonField w))
  | 0xD => withZeros 0x047F w (.rxGetClick (sideField w) (buttonField w))
  | 0xE => .instr (.reservedOpE (lowField w)) []
  | _ => .instr (.reservedOpF (lowField w)) []   -- 0xF, the one four-bit opcode left

/-! ### Wire bytes -/

/-- Bits 7:6 of a header, unused (R48, R49). -/
def unusedField (h : Header) : BitVec 2 := h.extractLsb' Config.nGroups 2

/-- Bits 5:0 of a header, one per field group (R48). -/
def groupField (h : Header) : BitVec Config.nGroups := h.extractLsb' 0 Config.nGroups

/-- Where a header is expected: a header whose only group bit is one group's, with that group's data
bytes behind it, is that group's frame (R50, R68); any other byte is a header by itself (R56). -/
def decodeHeader (h : Header) (bytes : List Byte) : Instr × List Byte :=
  let u := unusedField h
  match (groupField h).toNat, bytes with
  | 0x01, x :: y :: rest => (.frameGroupLJ u x y, rest)
  | 0x02, x :: y :: rest => (.frameGroupRJ u x y, rest)
  | 0x04, x :: rest => (.frameGroupLT u x, rest)
  | 0x08, x :: rest => (.frameGroupRT u x, rest)
  | 0x10, x :: rest => (.frameGroupLB u x, rest)
  | 0x20, x :: rest => (.frameGroupRB u x, rest)
  | _, bytes => (.wireHeader h, bytes)

/-- The first wire element of a byte list, at a place in the stream where `role` is due. No byte is
rejected (R56). -/
def decodeWire (role : WireRole) : List Byte → Decoded
  | [] => .empty
  | b :: bytes =>
    match role with
    | .header => .instr (decodeHeader b bytes).1 (decodeHeader b bytes).2
    | .joy => .instr (.wireJoyByte b) bytes
    | .trig => .instr (.wireTrigByte b) bytes
    | .btn => .instr (.wireBtnByte b) bytes

/-- Any host input, where RX is due a wire byte of `role`. -/
def decodeInput (role : WireRole) : HostInput → Decoded
  | .command w v now bytes => decodeCommand w v now bytes
  | .resetUnit u => .instr (.reset u) []
  | .wire bytes => decodeWire role bytes

/-- The bytes of a wire word, bit 0 the least significant bit of the first byte, as many as the longest
wire instruction has. -/
def wireBytesOfNat (w : Nat) : List Byte :=
  [BitVec.ofNat 8 w, BitVec.ofNat 8 (w / 256), BitVec.ofNat 8 (w / 65536)]

/-- The decoder on a row of spec/opcode_table.json: a 16-bit command word, or wire bytes at the start of
a frame. The operands that are not bits are 0, 0 and []. -/
def decodeTableWord (nbits w : Nat) : Option Instr :=
  let d :=
    if nbits = 16 then decodeCommand (BitVec.ofNat 16 w) 0 0 []
    else if nbits = 8 then decodeWire .header (wireBytesOfNat w)
    else .empty
  match d with
  | .instr i _ => some i
  | .refused _ => none
  | .empty => none

/-! ### The encoder -/

/-- The side's bit (R57). -/
def sideBit : Side → BitVec 1
  | .left => 0
  | .right => 1

/-- The axis' bit (R57). -/
def axisBit : Axis → BitVec 1
  | .x => 0
  | .y => 1

/-- The pressed bit (R57). -/
def pressedBit (p : Bool) : BitVec 1 := if p then 1 else 0

/-- `0001sa0000000000` (R58). -/
def wordTxSetJoy (s : Side) (a : Axis) : CmdWord := 0x1#4 ++ sideBit s ++ axisBit a ++ 0#10

/-- `0010s00000000000` (R58). -/
def wordTxSetTrig (s : Side) : CmdWord := 0x2#4 ++ sideBit s ++ 0#11

/-- `0011s0bbbp000000` (R58). -/
def wordTxSetBtn (s : Side) (b : ButtonId) (p : Bool) : CmdWord :=
  0x3#4 ++ sideBit s ++ 0#1 ++ b ++ pressedBit p ++ 0#6

/-- `1010sa0000000000` (R58). -/
def wordRxGetJoy (s : Side) (a : Axis) : CmdWord := 0xA#4 ++ sideBit s ++ axisBit a ++ 0#10

/-- `1011s00000000000` (R58). -/
def wordRxGetTrig (s : Side) : CmdWord := 0xB#4 ++ sideBit s ++ 0#11

/-- `1100s0bbb0000000` (R58). -/
def wordRxGetBtn (s : Side) (b : ButtonId) : CmdWord := 0xC#4 ++ sideBit s ++ 0#1 ++ b ++ 0#7

/-- `1101s0bbb0000000` (R58). -/
def wordRxGetClick (s : Side) (b : ButtonId) : CmdWord := 0xD#4 ++ sideBit s ++ 0#1 ++ b ++ 0#7

/-- A reserved opcode with the twelve bits below it (R58). -/
def wordReserved (op : BitVec 4) (low : BitVec 12) : CmdWord := op ++ low

/-- The command word of an instruction that has one (R58). -/
def encodeWord : Instr → Option CmdWord
  | .txSetJoy s a _ => some (wordTxSetJoy s a)
  | .txSetTrig s _ => some (wordTxSetTrig s)
  | .txSetBtn s b p => some (wordTxSetBtn s b p)
  | .txUpdate _ => some 0x4000
  | .rxPoll _ _ => some 0x8000
  | .rxConnected _ _ => some 0x9000
  | .rxGetJoy s a => some (wordRxGetJoy s a)
  | .rxGetTrig s => some (wordRxGetTrig s)
  | .rxGetBtn s b => some (wordRxGetBtn s b)
  | .rxGetClick s b => some (wordRxGetClick s b)
  | .reservedOp0 low => some (wordReserved 0x0 low)
  | .reservedOp5 low => some (wordReserved 0x5 low)
  | .reservedOp6 low => some (wordReserved 0x6 low)
  | .reservedOp7 low => some (wordReserved 0x7 low)
  | .reservedOpE low => some (wordReserved 0xE low)
  | .reservedOpF low => some (wordReserved 0xF low)
  | .wireHeader _ => none
  | .frameGroupLJ _ _ _ => none
  | .frameGroupRJ _ _ _ => none
  | .frameGroupLT _ _ => none
  | .frameGroupRT _ _ => none
  | .frameGroupLB _ _ => none
  | .frameGroupRB _ _ => none
  | .wireJoyByte _ => none
  | .wireTrigByte _ => none
  | .wireBtnByte _ => none
  | .send _ => none
  | .fullSend _ => none
  | .rxHeaderStep _ => none
  | .rxBodyStep _ => none
  | .reset _ => none

/-- The header byte whose bits 7:6 are `unused` and whose bits 5:0 are `groups` (R48). -/
def headerByte (unused : BitVec 2) (groups : BitVec Config.nGroups) : Header := unused ++ groups

/-- The bytes of a wire instruction, first byte first (R47, R50). -/
def encodeWire : Instr → Option (List Byte)
  | .wireHeader h => some [h]
  | .frameGroupLJ u x y => some [headerByte u 0x01, x, y]
  | .frameGroupRJ u x y => some [headerByte u 0x02, x, y]
  | .frameGroupLT u x => some [headerByte u 0x04, x]
  | .frameGroupRT u x => some [headerByte u 0x08, x]
  | .frameGroupLB u x => some [headerByte u 0x10, x]
  | .frameGroupRB u x => some [headerByte u 0x20, x]
  | .wireJoyByte x => some [x]
  | .wireTrigByte x => some [x]
  | .wireBtnByte x => some [x]
  | .txSetJoy _ _ _ => none
  | .txSetTrig _ _ => none
  | .txSetBtn _ _ _ => none
  | .txUpdate _ => none
  | .rxPoll _ _ => none
  | .rxConnected _ _ => none
  | .rxGetJoy _ _ => none
  | .rxGetTrig _ => none
  | .rxGetBtn _ _ => none
  | .rxGetClick _ _ => none
  | .reservedOp0 _ => none
  | .reservedOp5 _ => none
  | .reservedOp6 _ => none
  | .reservedOp7 _ => none
  | .reservedOpE _ => none
  | .reservedOpF _ => none
  | .send _ => none
  | .fullSend _ => none
  | .rxHeaderStep _ => none
  | .rxBodyStep _ => none
  | .reset _ => none

/-- The place in the stream a wire instruction stands at; a header's for every other instruction, which
does not depend on it. -/
def wireRoleOf : Instr → WireRole
  | .wireJoyByte _ => .joy
  | .wireTrigByte _ => .trig
  | .wireBtnByte _ => .btn
  | _ => .header

/-- The analog operand of an instruction, 0 where it has none (R58). -/
def analogOperand : Instr → Analog
  | .txSetJoy _ _ v => v
  | .txSetTrig _ v => v
  | _ => 0

/-- The clock operand of an instruction, 0 where it has none (R58). -/
def nowOperand : Instr → Time
  | .txUpdate now => now
  | .rxPoll now _ => now
  | .rxConnected now _ => now
  | _ => 0

/-- The byte-list operand of an instruction, [] where it has none (R58). -/
def bytesOperand : Instr → List Byte
  | .rxPoll _ bytes => bytes
  | .rxConnected _ bytes => bytes
  | _ => []

/-- The host input that stands for an instruction. SEND, FULLSEND, HeaderStep and BodyStep are internal
and have none (R58, 92_eei_decisions.md D23). -/
def encode (i : Instr) : Option HostInput :=
  match encodeWord i, encodeWire i, i with
  | some w, _, _ => some (.command w (analogOperand i) (nowOperand i) (bytesOperand i))
  | none, some bytes, _ => some (.wire bytes)
  | none, none, .reset u => some (.resetUnit u)
  | none, none, _ => none

/-! ### Pseudo-operations and assembler syntax -/

/-- The operations a pseudo-operation expands into (R62). -/
def expandPseudo : Pseudo → List Instr
  | .setJoystick s x y => [.txSetJoy s .x x, .txSetJoy s .y y]
  | .setTrigger s v => [.txSetTrig s v]
  | .setButton s b p => [.txSetBtn s b p]
  | .joystick s a => [.rxGetJoy s a]
  | .trigger s => [.rxGetTrig s]
  | .button s b => [.rxGetBtn s b]
  | .buttonClick s b => [.rxGetClick s b]

/-- A side as the syntax writes it (R61). -/
def asmSide : Side → String
  | .left => "L"
  | .right => "R"

/-- An axis as the syntax writes it (R61). -/
def asmAxis : Axis → String
  | .x => "X"
  | .y => "Y"

/-- A button's id name (R11, R61); 6 and 7 have none. -/
def asmButton (b : ButtonId) : Option String :=
  ["LEFT", "RIGHT", "UP", "DOWN", "JOY_BUTTON", "BUMPER"][b.toNat]?

/-- An exact rational (R61). -/
def asmAnalog (v : Analog) : String :=
  toString v.num ++ (if v.den = 1 then "" else "/" ++ toString v.den)

/-- A hex digit. -/
def asmDigit (n : Nat) : String := String.singleton (Nat.digitChar n).toUpper

/-- A byte as two hex digits (R61). -/
def asmByte (b : Byte) : String := asmDigit (b.toNat / 16) ++ asmDigit (b.toNat % 16)

/-- A byte list in brackets (R61). -/
def asmBytes (bytes : List Byte) : String := "[" ++ " ".intercalate (bytes.map asmByte) ++ "]"

/-- An operation in the syntax of R61, where it has one. -/
def asm : Instr → Option String
  | .txSetJoy s a v => some ("TX_SET_JOY " ++ asmSide s ++ ", " ++ asmAxis a ++ ", " ++ asmAnalog v)
  | .txSetTrig s v => some ("TX_SET_TRIG " ++ asmSide s ++ ", " ++ asmAnalog v)
  | .txSetBtn s b p =>
    (asmButton b).map fun name => "TX_SET_BTN " ++ asmSide s ++ ", " ++ name ++ (if p then ", 1" else ", 0")
  | .txUpdate now => some ("TX_UPDATE " ++ toString now.toNat)
  | .rxPoll now bytes => some ("RX_POLL " ++ toString now.toNat ++ ", " ++ asmBytes bytes)
  | .rxConnected now bytes => some ("RX_CONNECTED " ++ toString now.toNat ++ ", " ++ asmBytes bytes)
  | .rxGetJoy s a => some ("RX_GET_JOY " ++ asmSide s ++ ", " ++ asmAxis a)
  | .rxGetTrig s => some ("RX_GET_TRIG " ++ asmSide s)
  | .rxGetBtn s b => (asmButton b).map fun name => "RX_GET_BTN " ++ asmSide s ++ ", " ++ name
  | .rxGetClick s b => (asmButton b).map fun name => "RX_GET_CLICK " ++ asmSide s ++ ", " ++ name
  | .reset .tx => some "RESET TX"
  | .reset .rx => some "RESET RX"
  | .reservedOp0 _ => none
  | .reservedOp5 _ => none
  | .reservedOp6 _ => none
  | .reservedOp7 _ => none
  | .reservedOpE _ => none
  | .reservedOpF _ => none
  | .wireHeader _ => none
  | .frameGroupLJ _ _ _ => none
  | .frameGroupRJ _ _ _ => none
  | .frameGroupLT _ _ => none
  | .frameGroupRT _ _ => none
  | .frameGroupLB _ _ => none
  | .frameGroupRB _ _ => none
  | .wireJoyByte _ => none
  | .wireTrigByte _ => none
  | .wireBtnByte _ => none
  | .send _ => none
  | .fullSend _ => none
  | .rxHeaderStep _ => none
  | .rxBodyStep _ => none

end Sys2Proof
end

