-- ==== Sys2Proof/Machine/State.lean ====
section
/-! DEFINITION. The state as plain data: the TX registers, the RX registers (10_state.md R15 to R28), what a
run leaves to be observed (70_reset_and_hazards.md R135), and the inputs the host has queued. -/

namespace Sys2Proof.Machine

/-- One value per axis of a joystick. -/
structure PerAxis (α : Type) where
  x : α
  y : α
  deriving DecidableEq, Repr

/-- One value per side. -/
structure PerSide (α : Type) where
  left : α
  right : α
  deriving DecidableEq, Repr

/-- The TX registers (R15 to R20). -/
structure TxRegs where
  /-- `tx.joy[s][a]`, four exact rationals in [-1, 1] (R15). -/
  joy : PerSide (PerAxis Analog)
  /-- `tx.trig[s]`, two exact rationals in [0, 1] (R16). -/
  trig : PerSide Analog
  /-- `tx.btn[s]`, two button bytes (R17). -/
  btn : PerSide Byte
  /-- `tx.dirty`, the dirty header (R18). -/
  dirty : Header
  /-- `tx.lastSend`, the time of the last SEND (R19). -/
  lastSend : Time
  /-- `tx.lastFull`, the time of the last FULLSEND (R20). -/
  lastFull : Time
  deriving DecidableEq, Repr

/-- The RX registers (R21 to R28). -/
structure RxRegs where
  /-- `rx.joy[s][a]`, four raw joystick bytes (R21). -/
  joy : PerSide (PerAxis Byte)
  /-- `rx.trig[s]`, two raw trigger bytes (R22). -/
  trig : PerSide Byte
  /-- `rx.btn[s]`, the last button byte of each side, all eight bits (R23). -/
  btn : PerSide Byte
  /-- `rx.click[s]`, the click masks (R24). -/
  click : PerSide Byte
  /-- `rx.targets[i]`, eight target entries (R25). -/
  targets : Vector Target Config.nTargets
  /-- `rx.numBytes`, the data bytes the current packet calls for (R26). -/
  numBytes : U4
  /-- `rx.curByte`, the index of the next data byte (R27). -/
  curByte : U4
  /-- `rx.lastReceive`, the time of the last poll that read a byte (R28). -/
  lastReceive : Time
  deriving DecidableEq, Repr

/-- A value an accessor or RX_CONNECTED returns to the host: an exact rational or a boolean
(92_eei_decisions.md D9). -/
inductive ReturnValue where
  | analog (q : Analog)
  | flag (b : Bool)
  deriving DecidableEq, Repr

/-- What R108 records of a refusal: its reason, the command word, and V for VALUE_OUT_OF_RANGE. -/
structure RefusalRecord where
  reason : RefuseReason
  word : CmdWord
  value : Option Analog
  deriving DecidableEq, Repr

/-- The two units, what the run has shown so far (R135), and what the host has queued. -/
structure State where
  /-- The sender's registers (R13). -/
  tx : TxRegs
  /-- The receiver's registers (R13). -/
  rx : RxRegs
  /-- The TX output stream, oldest byte first (R38, R135). -/
  out : List Byte
  /-- The values returned to the host, oldest first (R135). -/
  returned : List ReturnValue
  /-- The refusals so far, oldest first; the run is marked refused when there is one (R108, R135). -/
  refusals : List RefusalRecord
  /-- The inputs the host has queued, next first (R35, R135). -/
  inputs : List HostInput
  deriving DecidableEq, Repr

/-- The block raises no exception, trap or fault (60_exceptions.md R107): there is nothing to stop with. -/
inductive Fault where
  deriving DecidableEq, Repr

/-- The outcome besides a next state (60_exceptions.md R108). -/
inductive Refusal where
  /-- Raised by `step` and `runAll` (through `inRun`) where the run is marked refused: when an operation is refused, and
  ever after. It carries the state in which the run stands, with nothing written by the refused operation (R108, R135).
  Safe: no claim that rests on a next state can be proved of a refused run. -/
  | runRefused (s : State)
  /-- Raised by an arm of `exec` that has no meaning yet; no arm is left. Safe: the machine stops. -/
  | notModelled (mnemonic : String)
  deriving DecidableEq, Repr

/-- The TX registers after reset (R34, 92_eei_decisions.md D19). -/
def TxRegs.reset : TxRegs where
  joy := ⟨⟨0, 0⟩, ⟨0, 0⟩⟩
  trig := ⟨0, 0⟩
  btn := ⟨0x00, 0x00⟩
  dirty := 0x00
  lastSend := 0
  lastFull := 0

/-- The RX registers after reset (R34, 92_eei_decisions.md D19). -/
def RxRegs.reset : RxRegs where
  joy := ⟨⟨0x00, 0x00⟩, ⟨0x00, 0x00⟩⟩
  trig := ⟨0x00, 0x00⟩
  btn := ⟨0x00, 0x00⟩
  click := ⟨0x00, 0x00⟩
  targets := Vector.replicate Config.nTargets .jlx
  numBytes := 0
  curByte := 0
  lastReceive := 0

/-- The machine right after both units are reset, before the host has issued anything (R34, R121, R123). -/
def State.reset : State where
  tx := TxRegs.reset
  rx := RxRegs.reset
  out := []
  returned := []
  refusals := []
  inputs := []

end Sys2Proof.Machine
end

