-- ==== Sys2Proof/Machine/Operands.lean ====
section
/-! DEFINITION. Every operand form of the block: the accessors by side and axis, the domain tests of the
analog operands, elapsed time, and the shared frame codec of 40_codec.md (quantisers, decoders, the field
groups, the header's targets, the frame encoder). -/

namespace Sys2Proof.Machine

/-! ### Registers by side and axis -/

/-- Element `a` of a per-axis register. -/
def PerAxis.get {α : Type} (r : PerAxis α) : Axis → α
  | .x => r.x
  | .y => r.y

/-- A per-axis register with element `a` written. -/
def PerAxis.set {α : Type} (r : PerAxis α) (a : Axis) (v : α) : PerAxis α :=
  match a with
  | .x => { r with x := v }
  | .y => { r with y := v }

/-- Element `s` of a per-side register. -/
def PerSide.get {α : Type} (r : PerSide α) : Side → α
  | .left => r.left
  | .right => r.right

/-- A per-side register with element `s` written. -/
def PerSide.set {α : Type} (r : PerSide α) (s : Side) (v : α) : PerSide α :=
  match s with
  | .left => { r with left := v }
  | .right => { r with right := v }

/-- `joy[s][a]` of either unit (R15, R21). -/
def joyGet {α : Type} (r : PerSide (PerAxis α)) (s : Side) (a : Axis) : α := (r.get s).get a

/-- `joy[s][a] <- v` (R78, R95). -/
def joySet {α : Type} (r : PerSide (PerAxis α)) (s : Side) (a : Axis) (v : α) : PerSide (PerAxis α) :=
  r.set s ((r.get s).set a v)

/-! ### Operand tests -/

/-- `V < -1 or V > 1` (R78). -/
def outsideJoyDomain (v : Analog) : Bool := decide (v < -1) || decide (1 < v)

/-- `V < 0 or V > 1` (R79). -/
def outsideTrigDomain (v : Analog) : Bool := decide (v < 0) || decide (1 < v)

/-- `b > 5` (R80, R102, R103). -/
def buttonReserved (b : ButtonId) : Bool := decide (Config.maxButton < b.toNat)

/-! ### Elapsed time -/

/-- `el(now, t) = (now - t) mod 2^32` (R72), read as an unsigned number. -/
def el (now t : Time) : Nat := (now - t).toNat

/-- The link counts as up while less than CONNECTION_TIMEOUT has elapsed since the last receive (R99). -/
def linkUp (now t : Time) : Bool := decide (el now t < Config.connectionTimeout)

/-! ### Value normalisation -/

/-- `QuantJ(v) = floor(127.5 * (v + 1) + 1/2)` (R63). -/
def quantJ (v : Analog) : Byte := BitVec.ofInt 8 ⌊Config.joyScale * (v + 1) + 1 / 2⌋

/-- `QuantT(t) = floor(255 * t + 1/2)` (R64). -/
def quantT (t : Analog) : Byte := BitVec.ofInt 8 ⌊Config.trigScale * t + 1 / 2⌋

/-- `DecJ(x) = x / 127.5 - 1` (R65). -/
def decJ (x : Byte) : Analog := (x.toNat : Analog) / Config.joyScale - 1

/-- `DecT(x) = x / 255` (R66). -/
def decT (x : Byte) : Analog := (x.toNat : Analog) / Config.trigScale

/-- `Changed(new, old) = |new - old| > EPS`, strictly (R67). -/
def changed (new old : Analog) : Bool := decide (Config.eps < |new - old|)

/-! ### Field groups and targets (R68) -/

/-- The group's header bit (R11, R48). -/
def groupBit : Group → Nat
  | .lj => 0
  | .rj => 1
  | .lt => 2
  | .rt => 3
  | .lb => 4
  | .rb => 5

/-- `GT(g)`, the group's targets in order (R68). -/
def groupTargets : Group → List Target
  | .lj => [.jlx, .jly]
  | .rj => [.jrx, .jry]
  | .lt => [.tl]
  | .rt => [.tr]
  | .lb => [.bl]
  | .rb => [.br]

/-- The groups in header-bit order (R69). -/
def groupsInOrder : List Group := [.lj, .rj, .lt, .rt, .lb, .rb]

/-- What a header asks of one group: its targets if the group's bit is set (R69). -/
def headerGroupTargets (h : Header) (g : Group) : List Target :=
  if h.getLsbD (groupBit g) then groupTargets g else []

/-- `Targets(h)`, the header decoder (R69). Bits 7:6 add nothing (R49). -/
def headerTargets (h : Header) : List Target := groupsInOrder.flatMap (headerGroupTargets h)

/-- `Len(h)`, the data bytes a header calls for (R70). -/
def headerLen (h : Header) : Nat := (headerTargets h).length

/-- The length of a frame headed `h`: the header, then the data bytes it calls for (R55). -/
def frameLen (h : Header) : Nat := Config.minPacket + headerLen h

/-- The target's index (R11). -/
def targetIndex : Target → Nat
  | .jlx => 0
  | .jly => 1
  | .jrx => 2
  | .jry => 3
  | .tl => 4
  | .tr => 5
  | .bl => 6
  | .br => 7

/-- The kind of data byte a target takes (R51 to R53). -/
def targetRole : Target → WireRole
  | .jlx => .joy
  | .jly => .joy
  | .jrx => .joy
  | .jry => .joy
  | .tl => .trig
  | .tr => .trig
  | .bl => .btn
  | .br => .btn

/-- `ByteOf(t)`, the data byte TX sends for a target (R71). -/
def byteOf (tx : TxRegs) : Target → Byte
  | .jlx => quantJ (joyGet tx.joy .left .x)
  | .jly => quantJ (joyGet tx.joy .left .y)
  | .jrx => quantJ (joyGet tx.joy .right .x)
  | .jry => quantJ (joyGet tx.joy .right .y)
  | .tl => quantT (tx.trig.get .left)
  | .tr => quantT (tx.trig.get .right)
  | .bl => tx.btn.get .left
  | .br => tx.btn.get .right

/-- `EncodeFrame(h, tx)`: the header, then the byte of each of its targets in order (R71). -/
def encodeFrame (h : Header) (tx : TxRegs) : List Byte := h :: (headerTargets h).map (byteOf tx)

/-! ### The parser's place -/

/-- RX is in ExpectingHeader (R29). -/
def expectingHeader (rx : RxRegs) : Bool := rx.curByte == rx.numBytes

/-- `rx.targets[rx.curByte]` (R95). The index is taken modulo N_TARGETS; an
index above 7 stands in no state a run reaches (R27; assumption 11). -/
def currentTarget (rx : RxRegs) : Target :=
  rx.targets[rx.curByte.toNat % Config.nTargets]'(Nat.mod_lt _ (by decide))

/-- What the next wire byte is to RX (R93): a header, or the data byte of the current target. -/
def rxRole (rx : RxRegs) : WireRole :=
  if expectingHeader rx then .header else targetRole (currentTarget rx)

end Sys2Proof.Machine
end

