-- ==== Sys2Proof/Machine/Flags.lean ====
section
/-! DEFINITION. The flag computations: the dirty bits of TX (10_state.md R18, 41_tx.md R76, R77), the button
bits (40_codec.md R73), and the rising edges and click bits of RX (R74, R96, R103). -/

namespace Sys2Proof.Machine

/-! ### Dirty bits -/

/-- NONANALOG_MASK: LB and RB (R76). -/
def nonanalogMask : Header := 0x30

/-- ANALOG_MASK: LJ, RJ, LT and RT (R76). -/
def analogMask : Header := 0x0F

/-- LEFT_MASK: LJ, LT and LB (R76). -/
def leftMask : Header := 0x15

/-- RIGHT_MASK: RJ, RT and RB (R76). -/
def rightMask : Header := 0x2A

/-- JoyBit(s), shared by both axes (R77). -/
def joyBit : Side → Header
  | .left => 0x01
  | .right => 0x02

/-- TrigBit(s) (R77). -/
def trigBit : Side → Header
  | .left => 0x04
  | .right => 0x08

/-- BtnBit(s) (R77). -/
def btnBit : Side → Header
  | .left => 0x10
  | .right => 0x20

/-- `tx.dirty <- tx.dirty | bits` (R78 to R80, R85). -/
def markDirty (bits : Header) (tx : TxRegs) : TxRegs := { tx with dirty := tx.dirty ||| bits }

/-- Step 3's test: a button group is dirty, or any group is and the analog floor has passed (R82). -/
def partialSendDue (dirty : Header) (sinceSend : Nat) : Bool :=
  dirty &&& nonanalogMask != 0 || (dirty != 0 && decide (Config.analogInterval < sinceSend))

/-! ### Button and click bits -/

/-- `x` with bit `b` cleared (R73, R103). -/
def clearBit (x : Byte) (b : ButtonId) : Byte := x &&& ~~~(1#8 <<< b.toNat)

/-- `SetBit(x, b, p)`, bit clear and set (R73). -/
def setBit (x : Byte) (b : ButtonId) (p : Bool) : Byte :=
  clearBit x b ||| ((if p then 1#8 else 0#8) <<< b.toNat)

/-- `Rise(old, new) = new & ~old` (R74). -/
def rise (old new : Byte) : Byte := new &&& ~~~old

end Sys2Proof.Machine
end

