-- ==== Sys2Proof/Machine/Ops.lean ====
section
/-! DEFINITION. The shared operations. On the run: emitting, returning a value, and the refusal
(60_exceptions.md R108), which is all there is to taking an exception here: no state is saved, no vector
is taken and there is nothing to return from (R107, R113). On TX: SEND and FULLSEND (41_tx.md R84, R85).
On RX: the parser (42_rx.md R92 to R96) and the poll. On both: reset (70_reset_and_hazards.md R121). -/

namespace Sys2Proof.Machine

/-! ### The run -/

/-- `Emit(b)`: append to the TX output stream; never fails (R10, R38, 92_eei_decisions.md D29). -/
def emit (b : Byte) (s : State) : State := { s with out := s.out ++ [b] }

/-- `for x in bytes: Emit(x)` (R84). -/
def emitAll : List Byte → State → State
  | [], s => s
  | b :: bytes, s => emitAll bytes (emit b s)

/-- `return v` (R10): the value goes to the host. -/
def returnValue (v : ReturnValue) (s : State) : State := { s with returned := s.returned ++ [v] }

/-- `raise Refuse(reason)`: writes no register, emits no byte, marks the run refused for good and records
the command word, and V for VALUE_OUT_OF_RANGE (R10, R108). What that makes of the outcome is `inRun`. -/
def refuse (reason : RefuseReason) (word : CmdWord) (value : Option Analog) (s : State) : State :=
  { s with refusals := s.refusals ++ [⟨reason, word, value⟩] }

/-- The code that a refusal's record stands for (R108). -/
def RefusalRecord.code (r : RefusalRecord) : Nat := r.reason.code

/-- The run is not marked refused (R108). -/
def State.notRefused (s : State) : Bool := s.refusals.isEmpty

/-- What an operation's outcome is to its run (R108): a next state only while the run is not marked refused. In a
marked run the operation still has its effect (95_test_vectors.md P5), and the outcome is the refusal, which carries
the state; so a claim about a refused run cannot be proved (assumption 3). -/
def inRun : Host.Outcome State Fault Refusal → Host.Outcome State Fault Refusal
  | .next s => if s.notRefused then .next s else .refused (.runRefused s)
  | .fault r => .fault r
  | .refused r => .refused r

/-! ### TX -/

/-- SEND(now) (R84): the frame of the dirty groups goes out, the dirty header is cleared, the time kept. -/
def sendOp (now : Time) (s : State) : State :=
  let s := emitAll (encodeFrame s.tx.dirty s.tx) s
  { s with tx := { s.tx with dirty := 0x00, lastSend := now } }

/-- `tx.dirty <- tx.dirty | bits`, on the state. -/
def markDirtyOp (bits : Header) (s : State) : State := { s with tx := markDirty bits s.tx }

/-- FULLSEND(now) (R85): the left half is marked and sent with whatever was dirty, the time kept, and
the right half marked for a later tick. -/
def fullSendOp (now : Time) (s : State) : State :=
  let s := sendOp now (markDirtyOp leftMask s)
  let s := { s with tx := { s.tx with lastFull := now } }
  markDirtyOp rightMask s

/-- The scheduler (R82): the steps in order, the first that applies. -/
def updateOp (now : Time) (s : State) : State :=
  let sinceSend := el now s.tx.lastSend
  if sinceSend ≤ Config.minInterval then s
  else if Config.maxInterval < el now s.tx.lastFull then fullSendOp now s
  else if partialSendDue s.tx.dirty sinceSend then sendOp now s
  else s

/-! ### RX -/

/-- The first step of every poll (R92): bytes after a gap above PACKET_TIMEOUT start a new packet. -/
def timeoutResync (now : Time) (bytes : List Byte) (rx : RxRegs) : RxRegs :=
  if bytes ≠ [] ∧ Config.packetTimeout < el now rx.lastReceive then { rx with numBytes := 0, curByte := 0 }
  else rx

/-- `rx.targets[i + k] <- T[k]` for every k; the entries behind keep their values (R25, R94). -/
def writeTargets : Nat → List Target → Vector Target Config.nTargets → Vector Target Config.nTargets
  | _, [], regs => regs
  | i, t :: ts, regs => writeTargets (i + 1) ts (regs.setIfInBounds i t)

/-- HeaderStep(x) (R94). -/
def headerStep (x : Header) (rx : RxRegs) : RxRegs :=
  { rx with
    targets := writeTargets 0 (headerTargets x) rx.targets
    numBytes := BitVec.ofNat 4 (headerLen x)
    curByte := 0 }

/-- ButtonWrite(s, x) (R96): the rising edges join the click mask, then the byte is stored whole. -/
def buttonWrite (s : Side) (x : Byte) (rx : RxRegs) : RxRegs :=
  { rx with
    click := rx.click.set s (rx.click.get s ||| rise (rx.btn.get s) x)
    btn := rx.btn.set s x }

/-- The case split of BodyStep: the byte goes to its target (R95). -/
def routeByte (t : Target) (x : Byte) (rx : RxRegs) : RxRegs :=
  match t with
  | .jlx => { rx with joy := joySet rx.joy .left .x x }
  | .jly => { rx with joy := joySet rx.joy .left .y x }
  | .jrx => { rx with joy := joySet rx.joy .right .x x }
  | .jry => { rx with joy := joySet rx.joy .right .y x }
  | .tl => { rx with trig := rx.trig.set .left x }
  | .tr => { rx with trig := rx.trig.set .right x }
  | .bl => buttonWrite .left x rx
  | .br => buttonWrite .right x rx

/-- `rx.curByte <- rx.curByte + 1` (R95). -/
def advance (rx : RxRegs) : RxRegs := { rx with curByte := rx.curByte + 1 }

/-- BodyStep(x) (R95). -/
def bodyStep (x : Byte) (rx : RxRegs) : RxRegs := advance (routeByte (currentTarget rx) x rx)

/-- One byte of a poll (R93): a header where one is expected, else a data byte. -/
def parseByte (rx : RxRegs) (x : Byte) : RxRegs :=
  if expectingHeader rx then headerStep x rx else bodyStep x rx

/-- `for x in In` (R93): the bytes in order, each parsed in the state the one before left. -/
def parseBytes (bytes : List Byte) (rx : RxRegs) : RxRegs := bytes.foldl parseByte rx

/-- The last step of a poll (R93): the time is kept if a byte was read. -/
def stampReceive (now : Time) (bytes : List Byte) (rx : RxRegs) : RxRegs :=
  if bytes ≠ [] then { rx with lastReceive := now } else rx

/-- RX_POLL on the RX registers (R93). -/
def pollRegs (now : Time) (bytes : List Byte) (rx : RxRegs) : RxRegs :=
  stampReceive now bytes (parseBytes bytes (timeoutResync now bytes rx))

/-- RX_POLL on the state (R93). -/
def pollOp (now : Time) (bytes : List Byte) (s : State) : State := { s with rx := pollRegs now bytes s.rx }

/-- The bytes of a wire element as RX consumes them inside a poll (R93): no time test and no time kept. -/
def consumeOp (bytes : List Byte) (s : State) : State := { s with rx := parseBytes bytes s.rx }

/-! ### Reset -/

/-- RESET TX or RESET RX (R121): every register of the unit at its reset value, and nothing else. -/
def resetOp (u : UnitId) (s : State) : State :=
  match u with
  | .tx => { s with tx := TxRegs.reset }
  | .rx => { s with rx := RxRegs.reset }

end Sys2Proof.Machine
end

