-- ==== Sys2Proof/Machine/Reserved.lean ====
section
/-! DEFINITION. The six reserved opcodes (30_encoding.md R60): refused with RESERVED_OPCODE, the whole command
word recorded (60_exceptions.md R108). -/

namespace Sys2Proof.Machine

/-- The reserved opcode 0x0 (R60). -/
def execReservedOp0 (low : BitVec 12) (s : State) : Host.Outcome State Fault Refusal :=
  .next (refuse .reservedOpcode (wordReserved 0x0 low) none s)

/-- The reserved opcode 0x5 (R60). -/
def execReservedOp5 (low : BitVec 12) (s : State) : Host.Outcome State Fault Refusal :=
  .next (refuse .reservedOpcode (wordReserved 0x5 low) none s)

/-- The reserved opcode 0x6 (R60). -/
def execReservedOp6 (low : BitVec 12) (s : State) : Host.Outcome State Fault Refusal :=
  .next (refuse .reservedOpcode (wordReserved 0x6 low) none s)

/-- The reserved opcode 0x7 (R60). -/
def execReservedOp7 (low : BitVec 12) (s : State) : Host.Outcome State Fault Refusal :=
  .next (refuse .reservedOpcode (wordReserved 0x7 low) none s)

/-- The reserved opcode 0xE (R60). -/
def execReservedOpE (low : BitVec 12) (s : State) : Host.Outcome State Fault Refusal :=
  .next (refuse .reservedOpcode (wordReserved 0xE low) none s)

/-- The reserved opcode 0xF (R60). -/
def execReservedOpF (low : BitVec 12) (s : State) : Host.Outcome State Fault Refusal :=
  .next (refuse .reservedOpcode (wordReserved 0xF low) none s)

end Sys2Proof.Machine
end

