-- ==== Sys2Proof/Machine/ResetInput.lean ====
section
/-! DEFINITION. The reset input of a unit (70_reset_and_hazards.md R121). -/

namespace Sys2Proof.Machine

/-- RESET TX or RESET RX (R121). -/
def execReset (u : UnitId) (s : State) : Host.Outcome State Fault Refusal := .next (resetOp u s)

end Sys2Proof.Machine
end

