-- ==== Sys2Proof/Machine/Rx.lean ====
section
/-! DEFINITION. The RX operations (42_rx.md): the poll, the connection test, the four accessors, and the two
internal steps of the parser. -/

namespace Sys2Proof.Machine

/-- RX_POLL now, In (R93). -/
def execRxPoll (now : Time) (bytes : List Byte) (s : State) : Host.Outcome State Fault Refusal :=
  .next (pollOp now bytes s)

/-- RX_CONNECTED now, In (R99): poll first, then compare, with one `now`. -/
def execRxConnected (now : Time) (bytes : List Byte) (s : State) : Host.Outcome State Fault Refusal :=
  let s := pollOp now bytes s
  .next (returnValue (.flag (linkUp now s.rx.lastReceive)) s)

/-- RX_GET_JOY s, a (R100). -/
def execRxGetJoy (side : Side) (a : Axis) (s : State) : Host.Outcome State Fault Refusal :=
  .next (returnValue (.analog (decJ (joyGet s.rx.joy side a))) s)

/-- RX_GET_TRIG s (R101). -/
def execRxGetTrig (side : Side) (s : State) : Host.Outcome State Fault Refusal :=
  .next (returnValue (.analog (decT (s.rx.trig.get side))) s)

/-- RX_GET_BTN s, b (R102). -/
def execRxGetBtn (side : Side) (b : ButtonId) (s : State) : Host.Outcome State Fault Refusal :=
  .next <|
    if buttonReserved b then refuse .reservedButton (wordRxGetBtn side b) none s
    else returnValue (.flag ((s.rx.btn.get side).getLsbD b.toNat)) s

/-- RX_GET_CLICK s, b (R103): the bit is read, then cleared. -/
def execRxGetClick (side : Side) (b : ButtonId) (s : State) : Host.Outcome State Fault Refusal :=
  .next <|
    if buttonReserved b then refuse .reservedButton (wordRxGetClick side b) none s
    else
      let r := (s.rx.click.get side).getLsbD b.toNat
      let s := { s with rx := { s.rx with click := s.rx.click.set side (clearBit (s.rx.click.get side) b) } }
      returnValue (.flag r) s

/-- HeaderStep(x) (R94); RX_POLL runs it in ExpectingHeader only. -/
def execRxHeaderStep (x : Byte) (s : State) : Host.Outcome State Fault Refusal :=
  .next { s with rx := headerStep x s.rx }

/-- BodyStep(x) (R95); RX_POLL runs it in ReceivingBody only. -/
def execRxBodyStep (x : Byte) (s : State) : Host.Outcome State Fault Refusal :=
  .next { s with rx := bodyStep x s.rx }

end Sys2Proof.Machine
end

