-- ==== Sys2Proof/Machine/Tx.lean ====
section
/-! DEFINITION. The TX operations (41_tx.md): the three setters, the tick, and its internal procedures. -/

namespace Sys2Proof.Machine

/-- TX_SET_JOY s, a, V (R78). -/
def execTxSetJoy (side : Side) (a : Axis) (v : Analog) (s : State) : Host.Outcome State Fault Refusal :=
  .next <|
    if outsideJoyDomain v then refuse .valueOutOfRange (wordTxSetJoy side a) (some v) s
    else if changed v (joyGet s.tx.joy side a) then
      { s with tx := markDirty (joyBit side) { s.tx with joy := joySet s.tx.joy side a v } }
    else s

/-- TX_SET_TRIG s, V (R79). -/
def execTxSetTrig (side : Side) (v : Analog) (s : State) : Host.Outcome State Fault Refusal :=
  .next <|
    if outsideTrigDomain v then refuse .valueOutOfRange (wordTxSetTrig side) (some v) s
    else if changed v (s.tx.trig.get side) then
      { s with tx := markDirty (trigBit side) { s.tx with trig := s.tx.trig.set side v } }
    else s

/-- TX_SET_BTN s, b, p (R80). -/
def execTxSetBtn (side : Side) (b : ButtonId) (p : Bool) (s : State) : Host.Outcome State Fault Refusal :=
  .next <|
    if buttonReserved b then refuse .reservedButton (wordTxSetBtn side b p) none s
    else
      let nb := setBit (s.tx.btn.get side) b p
      if nb ≠ s.tx.btn.get side then
        { s with tx := markDirty (btnBit side) { s.tx with btn := s.tx.btn.set side nb } }
      else s

/-- TX_UPDATE now (R82). -/
def execTxUpdate (now : Time) (s : State) : Host.Outcome State Fault Refusal := .next (updateOp now s)

/-- SEND(now) (R84). -/
def execSend (now : Time) (s : State) : Host.Outcome State Fault Refusal := .next (sendOp now s)

/-- FULLSEND(now) (R85). -/
def execFullSend (now : Time) (s : State) : Host.Outcome State Fault Refusal := .next (fullSendOp now s)

end Sys2Proof.Machine
end

