-- ==== Sys2Proof/Machine/Wire.lean ====
section
/-! DEFINITION. The wire elements of 30_encoding.md Part 1 as RX consumes them: byte by byte, each a header
where RX expects one and a data byte otherwise (42_rx.md R93, R105), whatever the sender meant it for. -/

namespace Sys2Proof.Machine

/-- A header byte (R48, R94). -/
def execWireHeader (h : Header) (s : State) : Host.Outcome State Fault Refusal :=
  .next (consumeOp [h] s)

/-- The frame of group LJ (R68). -/
def execFrameGroupLJ (u : BitVec 2) (jlx jly : Byte) (s : State) : Host.Outcome State Fault Refusal :=
  .next (consumeOp [headerByte u 0x01, jlx, jly] s)

/-- The frame of group RJ (R68). -/
def execFrameGroupRJ (u : BitVec 2) (jrx jry : Byte) (s : State) : Host.Outcome State Fault Refusal :=
  .next (consumeOp [headerByte u 0x02, jrx, jry] s)

/-- The frame of group LT (R68). -/
def execFrameGroupLT (u : BitVec 2) (tl : Byte) (s : State) : Host.Outcome State Fault Refusal :=
  .next (consumeOp [headerByte u 0x04, tl] s)

/-- The frame of group RT (R68). -/
def execFrameGroupRT (u : BitVec 2) (tr : Byte) (s : State) : Host.Outcome State Fault Refusal :=
  .next (consumeOp [headerByte u 0x08, tr] s)

/-- The frame of group LB (R68). -/
def execFrameGroupLB (u : BitVec 2) (bl : Byte) (s : State) : Host.Outcome State Fault Refusal :=
  .next (consumeOp [headerByte u 0x10, bl] s)

/-- The frame of group RB (R68). -/
def execFrameGroupRB (u : BitVec 2) (br : Byte) (s : State) : Host.Outcome State Fault Refusal :=
  .next (consumeOp [headerByte u 0x20, br] s)

/-- A joystick data byte (R51, R95). -/
def execWireJoyByte (x : Byte) (s : State) : Host.Outcome State Fault Refusal :=
  .next (consumeOp [x] s)

/-- A trigger data byte (R52, R95). -/
def execWireTrigByte (x : Byte) (s : State) : Host.Outcome State Fault Refusal :=
  .next (consumeOp [x] s)

/-- A button data byte (R53, R95). -/
def execWireBtnByte (x : Byte) (s : State) : Host.Outcome State Fault Refusal :=
  .next (consumeOp [x] s)

end Sys2Proof.Machine
end

