-- ==== Sys2Proof/Machine/Dispatch.lean ====
section
/-! DEFINITION. One arm per constructor of Instr. -/

namespace Sys2Proof.Machine

/-- One instruction on the state. -/
def exec (i : Instr) (s : State) : Host.Outcome State Fault Refusal :=
  match i with
  | .txSetJoy side a v => Sys2Proof.Machine.execTxSetJoy side a v s
  | .txSetTrig side v => Sys2Proof.Machine.execTxSetTrig side v s
  | .txSetBtn side b p => Sys2Proof.Machine.execTxSetBtn side b p s
  | .txUpdate now => Sys2Proof.Machine.execTxUpdate now s
  | .rxPoll now bytes => Sys2Proof.Machine.execRxPoll now bytes s
  | .rxConnected now bytes => Sys2Proof.Machine.execRxConnected now bytes s
  | .rxGetJoy side a => Sys2Proof.Machine.execRxGetJoy side a s
  | .rxGetTrig side => Sys2Proof.Machine.execRxGetTrig side s
  | .rxGetBtn side b => Sys2Proof.Machine.execRxGetBtn side b s
  | .rxGetClick side b => Sys2Proof.Machine.execRxGetClick side b s
  | .reservedOp0 low => Sys2Proof.Machine.execReservedOp0 low s
  | .reservedOp5 low => Sys2Proof.Machine.execReservedOp5 low s
  | .reservedOp6 low => Sys2Proof.Machine.execReservedOp6 low s
  | .reservedOp7 low => Sys2Proof.Machine.execReservedOp7 low s
  | .reservedOpE low => Sys2Proof.Machine.execReservedOpE low s
  | .reservedOpF low => Sys2Proof.Machine.execReservedOpF low s
  | .wireHeader h => Sys2Proof.Machine.execWireHeader h s
  | .frameGroupLJ u jlx jly => Sys2Proof.Machine.execFrameGroupLJ u jlx jly s
  | .frameGroupRJ u jrx jry => Sys2Proof.Machine.execFrameGroupRJ u jrx jry s
  | .frameGroupLT u tl => Sys2Proof.Machine.execFrameGroupLT u tl s
  | .frameGroupRT u tr => Sys2Proof.Machine.execFrameGroupRT u tr s
  | .frameGroupLB u bl => Sys2Proof.Machine.execFrameGroupLB u bl s
  | .frameGroupRB u br => Sys2Proof.Machine.execFrameGroupRB u br s
  | .wireJoyByte x => Sys2Proof.Machine.execWireJoyByte x s
  | .wireTrigByte x => Sys2Proof.Machine.execWireTrigByte x s
  | .wireBtnByte x => Sys2Proof.Machine.execWireBtnByte x s
  | .send now => Sys2Proof.Machine.execSend now s
  | .fullSend now => Sys2Proof.Machine.execFullSend now s
  | .rxHeaderStep x => Sys2Proof.Machine.execRxHeaderStep x s
  | .rxBodyStep x => Sys2Proof.Machine.execRxBodyStep x s
  | .reset u => Sys2Proof.Machine.execReset u s

end Sys2Proof.Machine
end

