-- ==== Sys2Proof/Machine/Fetch.lean ====
section
/-! DEFINITION. Taking the next input: the block has no program counter and no program store (10_state.md R14,
20_memory.md R46), so what runs next is the first input the host has queued. -/

namespace Sys2Proof.Machine

/-- What taking the next input gives. -/
inductive Fetched where
  /-- An instruction to run, in the state that has taken it off the queue. -/
  | run (i : Instr) (s : State)
  /-- The state itself, with nothing to run. -/
  | done (s : State)
  deriving DecidableEq, Repr

/-- The command word of an input, for the record of a refusal (R108); 0 where there is none. -/
def inputWord : HostInput → CmdWord
  | .command w _ _ _ => w
  | .resetUnit _ => 0
  | .wire _ => 0

/-- The inputs left when wire bytes are left over: they stand before the rest. -/
def requeue (bytes : List Byte) (inputs : List HostInput) : List HostInput :=
  match bytes with
  | [] => inputs
  | b :: bs => .wire (b :: bs) :: inputs

/-- Take the next input. With none queued nothing changes (R119); a command word that the decoder refuses
is refused with its word recorded (R60, R108); an empty delivery changes nothing (R93). -/
def fetch (s : State) : Fetched :=
  match s.inputs with
  | [] => .done s
  | input :: inputs =>
    match decodeInput (rxRole s.rx) input with
    | .instr i bytes => .run i { s with inputs := requeue bytes inputs }
    | .refused reason => .done (refuse reason (inputWord input) none { s with inputs := inputs })
    | .empty => .done { s with inputs := inputs }

/-- The input that carries a row of spec/opcode_table.json: a command word with operands 0, 0 and [],
or wire bytes. -/
def tableInput (nbits w : Nat) : HostInput :=
  if nbits = 8 then .wire (wireBytesOfNat w) else .command (BitVec.ofNat 16 w) 0 0 []

/-- The state in which that input comes next. A wire word is read at the start of a frame, so RX is put
in ExpectingHeader for it; a command word needs nothing. -/
def placeInput (nbits w : Nat) (s : State) : State :=
  if nbits = 8 then
    { s with inputs := tableInput nbits w :: s.inputs, rx := { s.rx with curByte := s.rx.numBytes } }
  else { s with inputs := tableInput nbits w :: s.inputs }

end Sys2Proof.Machine
end

