-- ==== Sys2Proof/Machine/Step.lean ====
section
/-! DEFINITION. One step: take the next input and run what it decodes to (20_memory.md R35). -/

namespace Sys2Proof.Machine

/-- One atomic operation (R35), or nothing if the host has queued nothing (R119); a refusal in a run that is
marked refused (R108). -/
def step (s : State) : Host.Outcome State Fault Refusal :=
  match fetch s with
  | .run i s' => inRun (exec i s')
  | .done s' => inRun (.next s')

/-- `s` with a row of spec/opcode_table.json as its next input. -/
def State.withFetchWord (s : State) (nbits w : Nat) : State := placeInput nbits w s

end Sys2Proof.Machine
end

