-- ==== Sys2Proof/Safety.lean ====
section
/-! DEFINITION. The terms claims are stated in: a run that was not refused, the invariants of the registers and of
the output stream, runs of several instructions, and the histories that R90 and R104 speak of. -/

namespace Sys2Proof.Machine

/-! ### Runs -/

/-- The effects of a list of instructions, one after the other (20_memory.md R43), whether or not one is refused. -/
def execAll : List Instr → State → Host.Outcome State Fault Refusal
  | [], s => .next s
  | i :: is, s =>
    match exec i s with
    | .next s' => execAll is s'
    | .fault r => .fault r
    | .refused r => .refused r

/-- A run of a list of instructions: it answers a next state only if it ends unmarked, so every claim about a run
that starts from `runAll ops s = .next t` demands a run that is not refused (60_exceptions.md R108, 70_reset_and_hazards.md
R135). -/
def runAll (ops : List Instr) (s : State) : Host.Outcome State Fault Refusal := inRun (execAll ops s)

/-- The host operations of TX (41_tx.md R75). -/
def isTxOp : Instr → Bool
  | .txSetJoy _ _ _ => true
  | .txSetTrig _ _ => true
  | .txSetBtn _ _ _ => true
  | .txUpdate _ => true
  | _ => false

/-- The host operations of RX (42_rx.md). -/
def isRxOp : Instr → Bool
  | .rxPoll _ _ => true
  | .rxConnected _ _ => true
  | .rxGetJoy _ _ => true
  | .rxGetTrig _ => true
  | .rxGetBtn _ _ => true
  | .rxGetClick _ _ => true
  | _ => false

/-- The six reserved opcodes (30_encoding.md R60). -/
def isReservedOp : Instr → Bool
  | .reservedOp0 _ => true
  | .reservedOp5 _ => true
  | .reservedOp6 _ => true
  | .reservedOp7 _ => true
  | .reservedOpE _ => true
  | .reservedOpF _ => true
  | _ => false

/-- What a command word can stand for: no internal procedure, no wire element and no reset (R58). -/
def isCommand (i : Instr) : Bool := isTxOp i || isRxOp i || isReservedOp i

/-- The match and mask of each operation's row in spec/opcode_table.json. -/
def operationRows : List (CmdWord × CmdWord) :=
  [(0x1000, 0xF3FF), (0x2000, 0xF7FF), (0x3000, 0xF43F), (0x4000, 0xFFFF), (0x8000, 0xFFFF),
   (0x9000, 0xFFFF), (0xA000, 0xF3FF), (0xB000, 0xF7FF), (0xC000, 0xF47F), (0xD000, 0xF47F)]

/-- The refusal reasons that apply to a command word with its V: the column "when" of R108, each on its own. -/
def reasonApplies (r : RefuseReason) (w : CmdWord) (v : Analog) : Prop :=
  match r with
  | .reservedOpcode => w.extractLsb' 12 4 ∈ [0x0#4, 0x5#4, 0x6#4, 0x7#4, 0xE#4, 0xF#4]
  | .reservedField => ∃ row ∈ operationRows, w &&& 0xF000 = row.1 ∧ w &&& row.2 ≠ row.1
  | .reservedButton => w.extractLsb' 12 4 ∈ [0x3#4, 0xC#4, 0xD#4] ∧ w.extractLsb' 7 3 ∈ [6#3, 7#3]
  | .valueOutOfRange =>
    (w.extractLsb' 12 4 = 0x1#4 ∧ (v < -1 ∨ 1 < v)) ∨ (w.extractLsb' 12 4 = 0x2#4 ∧ (v < 0 ∨ 1 < v))

/-! ### Frames of a statement -/

/-- Everything but the TX registers is as before. -/
def sameButTx (s t : State) : Prop :=
  t.rx = s.rx ∧ t.out = s.out ∧ t.returned = s.returned ∧ t.refusals = s.refusals ∧ t.inputs = s.inputs

/-- Everything but the RX registers is as before. -/
def sameButRx (s t : State) : Prop :=
  t.tx = s.tx ∧ t.out = s.out ∧ t.returned = s.returned ∧ t.refusals = s.refusals ∧ t.inputs = s.inputs

/-- The RX register a target names (40_codec.md R68), read. -/
def fieldAt (rx : RxRegs) : Target → Byte
  | .jlx => joyGet rx.joy .left .x
  | .jly => joyGet rx.joy .left .y
  | .jrx => joyGet rx.joy .right .x
  | .jry => joyGet rx.joy .right .y
  | .tl => rx.trig.get .left
  | .tr => rx.trig.get .right
  | .bl => rx.btn.get .left
  | .br => rx.btn.get .right

/-! ### Invariants -/

/-- The analog registers hold values of their domains (10_state.md R15, R16). -/
def TxRegs.inDomain (tx : TxRegs) : Prop :=
  ∀ s, (∀ a, -1 ≤ joyGet tx.joy s a ∧ joyGet tx.joy s a ≤ 1) ∧ 0 ≤ tx.trig.get s ∧ tx.trig.get s ≤ 1

/-- Bits 7:6 of the button bytes and of the dirty header are 0 (R17, R18). -/
def TxRegs.highBitsZero (tx : TxRegs) : Prop :=
  (∀ s, tx.btn.get s &&& 0xC0 = 0) ∧ tx.dirty &&& 0xC0 = 0

/-- `curByte ≤ numBytes ≤ N_TARGETS`, and the target list is that of a header calling for numBytes data bytes
(R25 to R27, R94). -/
def RxRegs.parserOk (rx : RxRegs) : Prop :=
  rx.curByte.toNat ≤ rx.numBytes.toNat ∧ rx.numBytes.toNat ≤ Config.nTargets ∧
    ∃ h, headerTargets h = rx.targets.toList.take rx.numBytes.toNat

/-- The registers are as the rules say they always are. -/
def State.regsOk (s : State) : Prop := s.tx.inDomain ∧ s.tx.highBitsZero ∧ s.rx.parserOk

/-- A byte stream made of whole frames, none headed 0x00 and each header with bits 7:6 at 0
(R47, R49, R55, R83). -/
inductive WholeFrames : List Byte → Prop where
  | nil : WholeFrames []
  | frame (h : Header) (body rest : List Byte) : h ≠ 0 → h &&& 0xC0 = 0 → body.length = headerLen h →
      WholeFrames rest → WholeFrames (h :: (body ++ rest))

/-! ### Histories -/

/-- The ghost pair of R90: `changed`, the groups whose setter changed a stored value since the last SEND,
and `deferred`, RIGHT_MASK if that SEND ran inside a FULLSEND. -/
structure DirtyHistory where
  changed : Header
  deferred : Header
  deriving DecidableEq, Repr

/-- One instruction's effect on the ghost pair, read off the states before and after it: a setter counts
if the stored value moved, a tick if it emitted, and a tick that moved `lastFull` or ran with the
heartbeat due was a FULLSEND. -/
def DirtyHistory.next (g : DirtyHistory) (i : Instr) (before after : State) : DirtyHistory :=
  match i with
  | .txSetJoy side a _ =>
    if joyGet after.tx.joy side a = joyGet before.tx.joy side a then g
    else { g with changed := g.changed ||| joyBit side }
  | .txSetTrig side _ =>
    if after.tx.trig.get side = before.tx.trig.get side then g
    else { g with changed := g.changed ||| trigBit side }
  | .txSetBtn side _ _ =>
    if after.tx.btn.get side = before.tx.btn.get side then g
    else { g with changed := g.changed ||| btnBit side }
  | .txUpdate now =>
    if after.out = before.out then g
    else if Config.maxInterval < el now before.tx.lastFull then ⟨0, rightMask⟩
    else ⟨0, 0⟩
  | _ => g

/-- The ghost pair after a list of instructions. -/
def DirtyHistory.after : List Instr → State → DirtyHistory → DirtyHistory
  | [], _, g => g
  | i :: is, s, g =>
    match exec i s with
    | .next s' => DirtyHistory.after is s' (g.next i s s')
    | .fault _ => g
    | .refused _ => g

/-- The button target of a side. -/
def buttonTarget : Side → Target
  | .left => .bl
  | .right => .br

/-- The button bytes of one side that a byte list stores, oldest first (R95, R96). -/
def storedButtons (side : Side) : List Byte → RxRegs → List Byte
  | [], _ => []
  | x :: xs, rx =>
    (if expectingHeader rx = false ∧ currentTarget rx = buttonTarget side then [x] else [])
      ++ storedButtons side xs (parseByte rx x)

/-- The button bytes of one side that a command stores, oldest first: the two that poll store those of their
byte list (R93, R99), and no other command stores any (R23, R95). -/
def storedBy (side : Side) (i : Instr) (rx : RxRegs) : List Byte :=
  match i with
  | .rxPoll now bytes => storedButtons side bytes (timeoutResync now bytes rx)
  | .rxConnected now bytes => storedButtons side bytes (timeoutResync now bytes rx)
  | _ => []

/-- The button bytes of one side that a list of commands stores, oldest first. -/
def storedAlong (side : Side) : List Instr → State → List Byte
  | [], _ => []
  | i :: is, s =>
    match exec i s with
    | .next s' => storedBy side i s.rx ++ storedAlong side is s'
    | .fault _ => []
    | .refused _ => []

/-- Bit `b` rises somewhere along the bytes stored after `old` (R74, R104). -/
def risesIn (b : ButtonId) : Byte → List Byte → Bool
  | _, [] => false
  | old, x :: xs => (!old.getLsbD b.toNat && x.getLsbD b.toNat) || risesIn b x xs

end Sys2Proof.Machine
end

