-- ==== Sys2Proof/Certificates/Slice0/Obligations.lean ====
section
/-! DEFINITION. The statements for the provers, from the numbered rules of spec/. -/

open Sys2Proof Sys2Proof.Machine

/-! ### Encoding -/

/-- 30_encoding.md R58: a word of each operation, written out bit by bit, decodes to it. -/
def Obligations.OperationWordsDecodeAsTheTableSays : Prop :=
  ∀ (v : Analog) (now : Time) (bytes : List Byte),
    decodeCommand 0b0001110000000000#16 v now bytes = .instr (.txSetJoy .right .y v) [] ∧
    decodeCommand 0b0010100000000000#16 v now bytes = .instr (.txSetTrig .right v) [] ∧
    decodeCommand 0b0011001001000000#16 v now bytes = .instr (.txSetBtn .left 4 true) [] ∧
    decodeCommand 0b0100000000000000#16 v now bytes = .instr (.txUpdate now) [] ∧
    decodeCommand 0b1000000000000000#16 v now bytes = .instr (.rxPoll now bytes) [] ∧
    decodeCommand 0b1001000000000000#16 v now bytes = .instr (.rxConnected now bytes) [] ∧
    decodeCommand 0b1010010000000000#16 v now bytes = .instr (.rxGetJoy .left .y) [] ∧
    decodeCommand 0b1011100000000000#16 v now bytes = .instr (.rxGetTrig .right) [] ∧
    decodeCommand 0b1100001000000000#16 v now bytes = .instr (.rxGetBtn .left 4) [] ∧
    decodeCommand 0b1101101010000000#16 v now bytes = .instr (.rxGetClick .right 5) []

/-- The decoder gives back every instruction that has a command word, at every value of every operand
(R57 to R59). -/
def Obligations.DecodeOfEncodeOfCommandWords : Prop :=
  ∀ (i : Instr) (w : CmdWord), encodeWord i = some w →
    decodeCommand w (analogOperand i) (nowOperand i) (bytesOperand i) = .instr i []

/-- Every command word has one meaning: what it decodes to encodes to it again, and no word stands for an
internal procedure, a wire element or a reset (R58). -/
def Obligations.EveryCommandWordHasOneMeaning : Prop :=
  ∀ (w : CmdWord) (v : Analog) (now : Time) (bytes : List Byte) (i : Instr) (rest : List Byte),
    decodeCommand w v now bytes = .instr i rest →
      encodeWord i = some w ∧ rest = [] ∧ isCommand i = true

/-- The decoder gives back every wire element at its place in the stream, with every data byte and both
unused header bits (R48, R50 to R53). -/
def Obligations.DecodeOfEncodeOfWireElements : Prop :=
  ∀ (i : Instr) (bytes : List Byte), encodeWire i = some bytes →
    decodeWire (wireRoleOf i) bytes = .instr i []

/-- R56: any byte can stand anywhere; decoding rejects none and loses none. -/
def Obligations.NoWireByteIsRejected : Prop :=
  ∀ (role : WireRole) (b : Byte) (bytes : List Byte),
    ∃ i taken rest, decodeWire role (b :: bytes) = .instr i rest ∧ encodeWire i = some taken ∧
      b :: bytes = taken ++ rest

/-- R60, R108: the words and values that are refused, each by its reason and code, with the command word recorded,
and V for a value; no register is written and no byte emitted. A field fixed at 0 comes before a button; of all the
reasons that apply to a command, the one of the lowest code is recorded. The outcome is the refusal. That it carries
the state, marked, is the model's reading (assumption 3). -/
def Obligations.CommandsOutsideTheMapAreRefused : Prop :=
  (RefuseReason.code .reservedOpcode = 1 ∧ RefuseReason.code .reservedField = 2 ∧
    RefuseReason.code .reservedButton = 3 ∧ RefuseReason.code .valueOutOfRange = 4) ∧
  ∀ (s : State) (w : CmdWord) (v : Analog) (now : Time) (bytes : List Byte) (rest : List HostInput),
    s.inputs = .command w v now bytes :: rest →
    (w.extractLsb' 12 4 ∈ [0x0#4, 0x5#4, 0x6#4, 0x7#4, 0xE#4, 0xF#4] →
      step s = .refused (.runRefused
        { s with inputs := rest, refusals := s.refusals ++ [⟨.reservedOpcode, w, none⟩] })) ∧
    (∀ row ∈ operationRows, w &&& 0xF000 = row.1 → w &&& row.2 ≠ row.1 →
      step s = .refused (.runRefused
        { s with inputs := rest, refusals := s.refusals ++ [⟨.reservedField, w, none⟩] })) ∧
    ((w &&& 0xF43F = 0x3000 ∨ w &&& 0xF47F = 0xC000 ∨ w &&& 0xF47F = 0xD000) →
      w.extractLsb' 7 3 = 6 ∨ w.extractLsb' 7 3 = 7 →
      step s = .refused (.runRefused
        { s with inputs := rest, refusals := s.refusals ++ [⟨.reservedButton, w, none⟩] })) ∧
    ((w &&& 0xF3FF = 0x1000 ∧ (v < -1 ∨ 1 < v)) ∨ (w &&& 0xF7FF = 0x2000 ∧ (v < 0 ∨ 1 < v)) →
      step s = .refused (.runRefused
        { s with inputs := rest, refusals := s.refusals ++ [⟨.valueOutOfRange, w, some v⟩] })) ∧
    (∀ r, reasonApplies r w v → (∀ r', reasonApplies r' w v → r.code ≤ r'.code) →
      step s = .refused (.runRefused { s with
        inputs := rest
        refusals := s.refusals ++ [⟨r, w, if r = .valueOutOfRange then some v else none⟩] }))

/-! ### The step -/

/-- R35: when the next input decodes to an instruction, the step runs `exec` of it, in the state that has
taken the input; wire bytes it did not take stay next. The outcome is that next state while the run is not marked
refused, else the refusal that carries it (R108). The queue is the model's own (assumption 1), and so is the
outcome's form (assumption 3). -/
def Obligations.StepRunsTheDecodedInput : Prop :=
  ∀ (s : State) (input : HostInput) (inputs : List HostInput) (i : Instr) (more : List Byte),
    s.inputs = input :: inputs → decodeInput (rxRole s.rx) input = .instr i more →
    ∃ t, exec i { s with inputs := if more = [] then inputs else .wire more :: inputs } = .next t ∧
      (t.refusals = [] → step s = .next t) ∧ (t.refusals ≠ [] → step s = .refused (.runRefused t))

/-- R119: with nothing issued the state stays as it is; so it does, but for the queue, when a delivery
brings no byte (R93; assumptions 1 and 2). The run is as it was: refused if it was marked so (R108; assumption 3). -/
def Obligations.NothingIssuedChangesNothing : Prop :=
  ∀ (s : State),
    (s.inputs = [] →
      step s = if s.refusals = [] then .next s else .refused (.runRefused s)) ∧
    (∀ inputs, s.inputs = .wire [] :: inputs →
      step s = if s.refusals = [] then .next { s with inputs := inputs }
        else .refused (.runRefused { s with inputs := inputs }))

/-! ### TX -/

/-- R78: a joystick axis inside its domain. Changed by more than 3/1000, the register takes V and the
side's bit joins the dirty header; else nothing changes. -/
def Obligations.TxSetJoyStoresAChangedAxis : Prop :=
  ∀ (side : Side) (a : Axis) (v : Analog) (s : State), -1 ≤ v → v ≤ 1 →
    ∃ t, exec (.txSetJoy side a v) s = .next t ∧
      (3 / 1000 < |v - joyGet s.tx.joy side a| →
        joyGet t.tx.joy side a = v ∧
        t.tx.dirty = s.tx.dirty ||| (if side = .left then 0x01 else 0x02)) ∧
      (|v - joyGet s.tx.joy side a| ≤ 3 / 1000 → t.tx = s.tx) ∧
      (∀ side' a', (side', a') ≠ (side, a) → joyGet t.tx.joy side' a' = joyGet s.tx.joy side' a') ∧
      t.tx.trig = s.tx.trig ∧ t.tx.btn = s.tx.btn ∧ t.tx.lastSend = s.tx.lastSend ∧
      t.tx.lastFull = s.tx.lastFull ∧ sameButTx s t

/-- R79: a trigger inside its domain. -/
def Obligations.TxSetTrigStoresAChangedValue : Prop :=
  ∀ (side : Side) (v : Analog) (s : State), 0 ≤ v → v ≤ 1 →
    ∃ t, exec (.txSetTrig side v) s = .next t ∧
      (3 / 1000 < |v - s.tx.trig.get side| →
        t.tx.trig.get side = v ∧ t.tx.dirty = s.tx.dirty ||| (if side = .left then 0x04 else 0x08)) ∧
      (|v - s.tx.trig.get side| ≤ 3 / 1000 → t.tx = s.tx) ∧
      (∀ side', side' ≠ side → t.tx.trig.get side' = s.tx.trig.get side') ∧
      t.tx.joy = s.tx.joy ∧ t.tx.btn = s.tx.btn ∧ t.tx.lastSend = s.tx.lastSend ∧
      t.tx.lastFull = s.tx.lastFull ∧ sameButTx s t

/-- R80: a button. Bit b of the side's byte becomes p and no other bit moves; the side's dirty bit is set
exactly when the byte changed. -/
def Obligations.TxSetBtnSetsOneBit : Prop :=
  ∀ (side : Side) (b : ButtonId) (p : Bool) (s : State), b.toNat ≤ 5 →
    ∃ t, exec (.txSetBtn side b p) s = .next t ∧
      (t.tx.btn.get side).getLsbD b.toNat = p ∧
      (∀ k, k ≠ b.toNat → (t.tx.btn.get side).getLsbD k = (s.tx.btn.get side).getLsbD k) ∧
      (∀ side', side' ≠ side → t.tx.btn.get side' = s.tx.btn.get side') ∧
      t.tx.dirty = (if (s.tx.btn.get side).getLsbD b.toNat = p then s.tx.dirty
        else s.tx.dirty ||| (if side = .left then 0x10 else 0x20)) ∧
      t.tx.joy = s.tx.joy ∧ t.tx.trig = s.tx.trig ∧ t.tx.lastSend = s.tx.lastSend ∧
      t.tx.lastFull = s.tx.lastFull ∧ sameButTx s t

/-- R71 with R50: the frame is the header and then, group by group in header-bit order and X before Y,
exactly the bytes whose header bit is set; one byte longer than the header calls for, nine at most. -/
def Obligations.FrameHoldsExactlyTheSetGroups : Prop :=
  ∀ (h : Byte) (tx : TxRegs),
    encodeFrame h tx =
      [h]
      ++ (if h.getLsbD 0 then [quantJ (joyGet tx.joy .left .x), quantJ (joyGet tx.joy .left .y)] else [])
      ++ (if h.getLsbD 1 then [quantJ (joyGet tx.joy .right .x), quantJ (joyGet tx.joy .right .y)] else [])
      ++ (if h.getLsbD 2 then [quantT (tx.trig.get .left)] else [])
      ++ (if h.getLsbD 3 then [quantT (tx.trig.get .right)] else [])
      ++ (if h.getLsbD 4 then [tx.btn.get .left] else [])
      ++ (if h.getLsbD 5 then [tx.btn.get .right] else []) ∧
    (encodeFrame h tx).length = 1 + headerLen h ∧ (encodeFrame h tx).length ≤ 9

/-- R84 (an instruction of its own by assumption 10): SEND emits the frame of the dirty header, clears it and keeps the time. -/
def Obligations.SendEmitsTheDirtyGroups : Prop :=
  ∀ (now : Time) (s : State),
    exec (.send now) s = .next { s with
      out := s.out ++ encodeFrame s.tx.dirty s.tx
      tx := { s.tx with dirty := 0x00, lastSend := now } }

/-- R85: FULLSEND emits the left half with whatever was dirty, keeps both times, and leaves the right
half dirty. That the dirty header ends as 0x2A is the spec's own inference from R84. -/
def Obligations.FullSendSendsTheLeftHalfAndDefersTheRight : Prop :=
  ∀ (now : Time) (s : State),
    exec (.fullSend now) s = .next { s with
      out := s.out ++ encodeFrame (s.tx.dirty ||| 0x15) s.tx
      tx := { s.tx with dirty := 0x2A, lastSend := now, lastFull := now } }

/-- R82: the four steps of a tick, in order; the first that applies acts. -/
def Obligations.TxUpdateTakesTheFirstStepThatApplies : Prop :=
  ∀ (now : Time) (s : State),
    ((now - s.tx.lastSend).toNat ≤ 20 → exec (.txUpdate now) s = .next s) ∧
    (20 < (now - s.tx.lastSend).toNat → 800 < (now - s.tx.lastFull).toNat →
      exec (.txUpdate now) s = exec (.fullSend now) s) ∧
    (20 < (now - s.tx.lastSend).toNat → (now - s.tx.lastFull).toNat ≤ 800 →
      (s.tx.dirty &&& 0x30 ≠ 0 ∨ (s.tx.dirty ≠ 0 ∧ 50 < (now - s.tx.lastSend).toNat)) →
      exec (.txUpdate now) s = exec (.send now) s) ∧
    (20 < (now - s.tx.lastSend).toNat → (now - s.tx.lastFull).toNat ≤ 800 →
      ¬ (s.tx.dirty &&& 0x30 ≠ 0 ∨ (s.tx.dirty ≠ 0 ∧ 50 < (now - s.tx.lastSend).toNat)) →
      exec (.txUpdate now) s = .next s)

/-- What a tick leaves alone: the analog registers, the buttons, RX, the returned values, the refusals
and the queue; the output stream only grows (R75, R82, R84, R85). -/
def Obligations.TxUpdateFrame : Prop :=
  ∀ (now : Time) (s : State), ∃ t, exec (.txUpdate now) s = .next t ∧
    t.tx.joy = s.tx.joy ∧ t.tx.trig = s.tx.trig ∧ t.tx.btn = s.tx.btn ∧ t.rx = s.rx ∧
    t.returned = s.returned ∧ t.refusals = s.refusals ∧ t.inputs = s.inputs ∧
    (t.tx.lastSend = s.tx.lastSend ∨ t.tx.lastSend = now) ∧
    (t.tx.lastFull = s.tx.lastFull ∨ t.tx.lastFull = now) ∧ ∃ frame, t.out = s.out ++ frame

/-- R81: no setter emits a byte, touches a timestamp or clears a dirty bit, in the domain or outside it. -/
def Obligations.SettersNeverClearADirtyBit : Prop :=
  ∀ (i : Instr) (s t : State), isTxOp i = true → (∀ now, i ≠ .txUpdate now) → exec i s = .next t →
    t.out = s.out ∧ t.tx.lastSend = s.tx.lastSend ∧ t.tx.lastFull = s.tx.lastFull ∧
    s.tx.dirty &&& t.tx.dirty = s.tx.dirty

/-- R83: a tick emits nothing, or exactly one frame; its header is not 0x00, and it has at most nine bytes. -/
def Obligations.TickEmitsAtMostOneFrame : Prop :=
  ∀ (now : Time) (s t : State), exec (.txUpdate now) s = .next t →
    t.out = s.out ∨
    ∃ h body, t.out = s.out ++ h :: body ∧ h ≠ 0x00 ∧ body.length = headerLen h ∧
      (h :: body).length ≤ 9

/-- R86: the deferred half. After a FULLSEND at T, with nothing in between, the first tick with more than
20 ms elapsed sends header 0x2A if at most 800 ms have, and another heartbeat with all six groups if
more have. -/
def Obligations.DeferredHalfGoesOutAtTheNextOpenTick : Prop :=
  ∀ (T now : Time) (s s1 : State), exec (.fullSend T) s = .next s1 → 20 < (now - T).toNat →
    ∃ t, exec (.txUpdate now) s1 = .next t ∧
      ((now - T).toNat ≤ 800 →
        t.out = s1.out ++ encodeFrame 0x2A s.tx ∧ t.tx.dirty = 0x00 ∧ t.tx.lastSend = now ∧ t.tx.lastFull = T) ∧
      (800 < (now - T).toNat →
        t.out = s1.out ++ encodeFrame 0x3F s.tx ∧ t.tx.dirty = 0x2A ∧ t.tx.lastSend = now ∧ t.tx.lastFull = now)

/-- R87: the rate floor. In a run that is not refused (R108), after a tick at T that sent, no command operation of
either unit makes TX emit, as long as every tick among them has at most 20 ms elapsed since T. A RESET (R121) is no command operation, and a
tick before T has far more elapsed (R131): neither is among them. -/
def Obligations.NoSecondFrameWithinTheFloor : Prop :=
  ∀ (T : Time) (s s1 s2 : State) (ops : List Instr),
    exec (.txUpdate T) s = .next s1 → s1.out ≠ s.out →
    (∀ i ∈ ops, isCommand i = true ∧ ∀ now, i = .txUpdate now → (now - T).toNat ≤ 20) →
    runAll ops s1 = .next s2 → s2.out = s1.out

/-- R88, for a run that is not refused (R108): no heartbeat runs while every tick has at most 800 ms elapsed since the last one, and the first
tick beyond that, with the floor passed, runs one whatever is dirty. -/
def Obligations.HeartbeatSpacing : Prop :=
  ∀ (s s1 : State) (ops : List Instr) (now : Time),
    (∀ i ∈ ops, isCommand i = true ∧ ∀ n, i = .txUpdate n → (n - s.tx.lastFull).toNat ≤ 800) →
    runAll ops s = .next s1 →
    s1.tx.lastFull = s.tx.lastFull ∧
    (800 < (now - s1.tx.lastFull).toNat → 20 < (now - s1.tx.lastSend).toNat →
      ∃ t body, exec (.txUpdate now) s1 = .next t ∧ t.tx.lastFull = now ∧ t.tx.dirty = 0x2A ∧
        t.out = s1.out ++ (s1.tx.dirty ||| 0x15) :: body)

/-- R89: button latency, in a run that is not refused (R108). Once TX_SET_BTN has changed a side's byte, and whatever commands follow, nothing goes
out until the first tick with more than 20 ms elapsed since the last send; that tick emits a frame whose header
has the side's bit and which carries the side's byte as it is then. -/
def Obligations.ChangedButtonGoesOutAtTheNextOpenTick : Prop :=
  ∀ (side : Side) (b : ButtonId) (p : Bool) (ops : List Instr) (now : Time) (s s1 s2 : State),
    exec (.txSetBtn side b p) s = .next s1 → s1.tx.btn.get side ≠ s.tx.btn.get side →
    (∀ i ∈ ops, isCommand i = true ∧ ∀ n, i = .txUpdate n → (n - s.tx.lastSend).toNat ≤ 20) →
    runAll ops s1 = .next s2 → 20 < (now - s.tx.lastSend).toNat →
    s2.out = s.out ∧
    ∃ t h before after, exec (.txUpdate now) s2 = .next t ∧
      t.out = s2.out ++ h :: (before ++ s2.tx.btn.get side :: after) ∧
      h &&& (if side = .left then 0x10 else 0x20) ≠ 0 ∧
      encodeFrame h s2.tx = h :: (before ++ s2.tx.btn.get side :: after)

/-- R90: after every list of TX operations from a clean start, none refused (R108), the dirty header is S | F: the groups whose
setter changed a stored value since the last SEND, and RIGHT_MASK if that SEND ran inside a FULLSEND. -/
def Obligations.DirtyIsWhatChangedAndWhatIsDeferred : Prop :=
  ∀ (ops : List Instr) (s t : State), s.tx.dirty = 0x00 → (∀ i ∈ ops, isTxOp i = true) →
    runAll ops s = .next t →
    t.tx.dirty = (DirtyHistory.after ops s ⟨0x00, 0x00⟩).changed
      ||| (DirtyHistory.after ops s ⟨0x00, 0x00⟩).deferred

/-- R90: the last value given to an analog register and the stored one are at most 3/1000 apart, whatever
host operations follow that do not set that register, in a run that is not refused (R108). -/
def Obligations.StoredAnalogIsWithinEpsilonOfTheLastGiven : Prop :=
  ∀ (s s1 s2 : State) (ops : List Instr), (∀ i ∈ ops, isCommand i = true) →
    (∀ side a v, -1 ≤ v → v ≤ 1 → exec (.txSetJoy side a v) s = .next s1 →
      (∀ v', Instr.txSetJoy side a v' ∉ ops) → runAll ops s1 = .next s2 →
      |v - joyGet s2.tx.joy side a| ≤ 3 / 1000) ∧
    (∀ side v, 0 ≤ v → v ≤ 1 → exec (.txSetTrig side v) s = .next s1 →
      (∀ v', Instr.txSetTrig side v' ∉ ops) → runAll ops s1 = .next s2 →
      |v - s2.tx.trig.get side| ≤ 3 / 1000)

/-! ### The codec -/

/-- R63: QuantJ is the floor of (255 (v + 1) + 1) / 2, a byte; the ends and the tie at 0. -/
def Obligations.QuantJRoundsToNearestTiesUp : Prop :=
  (∀ v : Analog, -1 ≤ v → v ≤ 1 →
    ((quantJ v).toNat : Int) = ⌊(255 * (v + 1) + 1) / 2⌋ ∧ |255 / 2 * (v + 1) - (quantJ v).toNat| ≤ 1 / 2) ∧
  quantJ (-1) = 0 ∧ quantJ 1 = 255 ∧ quantJ 0 = 128 ∧
  ∀ k : Nat, k < 255 → (quantJ ((2 * k + 1) / 255 - 1)).toNat = k + 1

/-- R64: QuantT is the floor of 255 t + 1/2, a byte; the ends and the ties. -/
def Obligations.QuantTRoundsToNearestTiesUp : Prop :=
  (∀ v : Analog, 0 ≤ v → v ≤ 1 →
    ((quantT v).toNat : Int) = ⌊255 * v + 1 / 2⌋ ∧ |255 * v - (quantT v).toNat| ≤ 1 / 2) ∧
  quantT 0 = 0 ∧ quantT 1 = 255 ∧
  ∀ k : Nat, k < 255 → (quantT ((2 * k + 1) / 510)).toNat = k + 1

/-- R65: DecJ is (2 x - 255) / 255, never exactly 0, and undoes QuantJ within 1/255. -/
def Obligations.DecJUndoesQuantJWithinTolerance : Prop :=
  (∀ x : Byte, decJ x = (2 * (x.toNat : Rat) - 255) / 255 ∧ decJ x ≠ 0) ∧
  (∀ v : Analog, -1 ≤ v → v ≤ 1 → |decJ (quantJ v) - v| ≤ 1 / 255)

/-- R66: DecT is x / 255 and undoes QuantT within 1/510. -/
def Obligations.DecTUndoesQuantTWithinTolerance : Prop :=
  (∀ x : Byte, decT x = (x.toNat : Rat) / 255) ∧
  (∀ v : Analog, 0 ≤ v → v ≤ 1 → |decT (quantT v) - v| ≤ 1 / 510)

/-- R69, R70: the targets of a header are its set groups' in ascending order, bits 7:6 add none, and their
number is 2 h[0] + 2 h[1] + h[2] + h[3] + h[4] + h[5]. That the order is strictly ascending is the spec's own
inference in R69. -/
def Obligations.HeaderTargetsAscendAndCount : Prop :=
  ∀ h : Byte,
    (headerTargets h).Pairwise (fun t u => targetIndex t < targetIndex u) ∧
    (∀ t, t ∈ headerTargets h ↔ ∃ g, h.getLsbD (groupBit g) = true ∧ t ∈ groupTargets g) ∧
    headerLen h = 2 * (h.getLsbD 0).toNat + 2 * (h.getLsbD 1).toNat + (h.getLsbD 2).toNat
      + (h.getLsbD 3).toNat + (h.getLsbD 4).toNat + (h.getLsbD 5).toNat

/-- R72: elapsed time is right across the wrap, and a `now` before the timestamp reads as nearly 2^32. -/
def Obligations.ElapsedTimeIsWraparoundSafe : Prop :=
  ∀ t d : Nat,
    (d < 2 ^ 32 → el (BitVec.ofNat 32 (t + d)) (BitVec.ofNat 32 t) = d) ∧
    (0 < d → d < 2 ^ 32 → el (BitVec.ofNat 32 t) (BitVec.ofNat 32 (t + d)) = 2 ^ 32 - d)

/-! ### RX -/

/-- R93, with the resync of R92: an empty poll changes nothing; one with bytes starts a new packet after a
gap above 2 ms, parses each byte as a header or a data byte by the state it finds, and keeps the time. -/
def Obligations.RxPollParsesEveryByte : Prop :=
  ∀ (now : Time) (bytes : List Byte) (s : State),
    (bytes = [] → exec (.rxPoll now bytes) s = .next s) ∧
    (bytes ≠ [] → exec (.rxPoll now bytes) s = .next { s with
      rx := { bytes.foldl
          (fun rx x => if rx.curByte = rx.numBytes then headerStep x rx else bodyStep x rx)
          (if 2 < (now - s.rx.lastReceive).toNat then { s.rx with numBytes := 0, curByte := 0 } else s.rx)
        with lastReceive := now } })

/-- R94: HeaderStep writes the header's targets and their number, starts at 0, and keeps the entries behind
and every other register. -/
def Obligations.HeaderStepLoadsTheTargets : Prop :=
  ∀ (x : Byte) (s : State), ∃ t, exec (.rxHeaderStep x) s = .next t ∧
    (∀ k (hk : k < 8), t.rx.targets[k] =
      if h : k < (headerTargets x).length then (headerTargets x)[k] else s.rx.targets[k]) ∧
    t.rx.numBytes.toNat = (headerTargets x).length ∧ t.rx.curByte = 0 ∧
    t.rx.joy = s.rx.joy ∧ t.rx.trig = s.rx.trig ∧ t.rx.btn = s.rx.btn ∧ t.rx.click = s.rx.click ∧
    t.rx.lastReceive = s.rx.lastReceive ∧ sameButRx s t

/-- R95: BodyStep stores the byte in the field its target names and no other, and moves on by one. Which
index a parser can be at is the invariant StepKeepsTheRegisterInvariant. -/
def Obligations.BodyStepRoutesTheByte : Prop :=
  ∀ (x : Byte) (s : State) (h : s.rx.curByte.toNat < 8), ∃ t, exec (.rxBodyStep x) s = .next t ∧
    fieldAt t.rx s.rx.targets[s.rx.curByte.toNat] = x ∧
    (∀ u, u ≠ s.rx.targets[s.rx.curByte.toNat] → fieldAt t.rx u = fieldAt s.rx u) ∧
    t.rx.curByte.toNat = s.rx.curByte.toNat + 1 ∧ t.rx.numBytes = s.rx.numBytes ∧
    t.rx.targets = s.rx.targets ∧ t.rx.lastReceive = s.rx.lastReceive ∧ sameButRx s t

/-- R96: a button byte adds its rising edges over the old byte to its side's click mask and is stored whole;
no other data byte touches a mask or a button byte. -/
def Obligations.ButtonBytesAddTheirRisingEdges : Prop :=
  ∀ (x : Byte) (s : State) (h : s.rx.curByte.toNat < 8), ∃ t, exec (.rxBodyStep x) s = .next t ∧
    t.rx.click.get .left =
      (if s.rx.targets[s.rx.curByte.toNat] = .bl then s.rx.click.get .left ||| (x &&& ~~~s.rx.btn.get .left)
        else s.rx.click.get .left) ∧
    t.rx.click.get .right =
      (if s.rx.targets[s.rx.curByte.toNat] = .br then s.rx.click.get .right ||| (x &&& ~~~s.rx.btn.get .right)
        else s.rx.click.get .right) ∧
    t.rx.btn.get .left = (if s.rx.targets[s.rx.curByte.toNat] = .bl then x else s.rx.btn.get .left) ∧
    t.rx.btn.get .right = (if s.rx.targets[s.rx.curByte.toNat] = .br then x else s.rx.btn.get .right)

/-- R99: RX_CONNECTED polls, then returns whether less than 1000 ms have elapsed, with one `now`. A call
that reads a byte returns true; one that reads none returns false exactly at 1000 ms or more. -/
def Obligations.RxConnectedPollsThenCompares : Prop :=
  ∀ (now : Time) (bytes : List Byte) (s : State), ∃ t answer,
    exec (.rxPoll now bytes) s = .next t ∧
    exec (.rxConnected now bytes) s = .next { t with returned := s.returned ++ [.flag answer] } ∧
    answer = decide ((now - t.rx.lastReceive).toNat < 1000) ∧
    (bytes ≠ [] → answer = true) ∧
    (bytes = [] → (answer = false ↔ 1000 ≤ (now - s.rx.lastReceive).toNat))

/-- R100: the axis as an exact rational; nothing else changes. -/
def Obligations.RxGetJoyReturnsTheDecodedAxis : Prop :=
  ∀ (side : Side) (a : Axis) (s : State),
    exec (.rxGetJoy side a) s = .next { s with
      returned := s.returned ++ [.analog ((2 * ((joyGet s.rx.joy side a).toNat : Rat) - 255) / 255)] }

/-- R101: the trigger as an exact rational; nothing else changes. -/
def Obligations.RxGetTrigReturnsTheDecodedTrigger : Prop :=
  ∀ (side : Side) (s : State),
    exec (.rxGetTrig side) s = .next { s with
      returned := s.returned ++ [.analog (((s.rx.trig.get side).toNat : Rat) / 255)] }

/-- R102: a button's level; nothing else changes. -/
def Obligations.RxGetBtnReturnsTheLevel : Prop :=
  ∀ (side : Side) (b : ButtonId) (s : State), b.toNat ≤ 5 →
    exec (.rxGetBtn side b) s = .next { s with
      returned := s.returned ++ [.flag ((s.rx.btn.get side).getLsbD b.toNat)] }

/-- R103: the click bit is returned and cleared; the other bits, the other side and every other register
stay. -/
def Obligations.RxGetClickReadsAndClearsOneBit : Prop :=
  ∀ (side : Side) (b : ButtonId) (s : State), b.toNat ≤ 5 →
    ∃ t, exec (.rxGetClick side b) s = .next t ∧
      t.returned = s.returned ++ [.flag ((s.rx.click.get side).getLsbD b.toNat)] ∧
      (t.rx.click.get side).getLsbD b.toNat = false ∧
      (∀ k, k ≠ b.toNat → (t.rx.click.get side).getLsbD k = (s.rx.click.get side).getLsbD k) ∧
      (∀ side', side' ≠ side → t.rx.click.get side' = s.rx.click.get side') ∧
      t.rx = { s.rx with click := t.rx.click } ∧
      t.tx = s.tx ∧ t.out = s.out ∧ t.refusals = s.refusals ∧ t.inputs = s.inputs

/-- R104: a click read returns true exactly when a rising edge of the bit was stored since the last read of
it, or since reset. A read and a reset of RX both leave the bit 0; from any state in which it is 0, whatever
commands follow that do not read this bit (polls, connection tests, reads of other bits, commands of TX), in a run
that is not refused (R108), the next read returns whether the bit rises along the button bytes they stored. -/
def Obligations.ClickReadReportsARisingEdgeSinceTheLastRead : Prop :=
  ∀ (side : Side) (b : ButtonId), b.toNat ≤ 5 →
    (∀ s0 s, exec (.rxGetClick side b) s0 = .next s → (s.rx.click.get side).getLsbD b.toNat = false) ∧
    (∀ s0 s, exec (.reset .rx) s0 = .next s → (s.rx.click.get side).getLsbD b.toNat = false) ∧
    ∀ (ops : List Instr) (s s2 : State), (s.rx.click.get side).getLsbD b.toNat = false →
      (∀ i ∈ ops, isCommand i = true ∧ i ≠ .rxGetClick side b) → runAll ops s = .next s2 →
      ∃ t, exec (.rxGetClick side b) s2 = .next t ∧
        t.returned = s2.returned ++ [.flag (risesIn b (s.rx.btn.get side) (storedAlong side ops s))]

/-- R105: after a gap above 2 ms, what the parser was in the middle of does not matter. -/
def Obligations.ResyncForgetsThePacketInProgress : Prop :=
  ∀ (now : Time) (x : Byte) (bytes : List Byte) (s : State) (n c : U4),
    2 < (now - s.rx.lastReceive).toNat →
    exec (.rxPoll now (x :: bytes)) { s with rx := { s.rx with numBytes := n, curByte := c } } =
      exec (.rxPoll now (x :: bytes)) s ∧
    ∃ t u, exec (.rxHeaderStep x) s = .next t ∧ exec (.rxPoll now (x :: bytes)) s = .next u ∧
      u.rx = { parseBytes bytes t.rx with lastReceive := now }

/-- R98: a packet over two polls that both bring bytes, with a gap of at most 2 ms, is parsed as in one. -/
def Obligations.PacketSplitOverPollsParsesAsOne : Prop :=
  ∀ (now1 now2 : Time) (a b : List Byte) (s : State), a ≠ [] → b ≠ [] → (now2 - now1).toNat ≤ 2 →
    ∃ s1 t u, exec (.rxPoll now1 a) s = .next s1 ∧ exec (.rxPoll now2 b) s1 = .next t ∧
      exec (.rxPoll now1 (a ++ b)) s = .next u ∧
      t = { u with rx := { u.rx with lastReceive := now2 } }

/-! ### Wire elements, internal steps, reset -/

/-- A wire element has the effect of an RX_POLL that brings its bytes at the instant of the last receive
(R93; the reading of the wire rows is the model's, assumptions 7 and 9). -/
def Obligations.WireElementIsAPollAtTheLastReceive : Prop :=
  ∀ (i : Instr) (bytes : List Byte) (s : State), encodeWire i = some bytes →
    ∃ t, exec i s = .next t ∧ exec (.rxPoll s.rx.lastReceive bytes) s = .next t

/-- R68, RX destination: the one-group frames, in ExpectingHeader, store their data bytes in their group's
registers and end in ExpectingHeader (the rows' reading as frames is the model's, assumption 8). -/
def Obligations.GroupFramesFillTheirRegisters : Prop :=
  ∀ (u : BitVec 2) (x y : Byte) (s : State), s.rx.curByte = s.rx.numBytes →
    (∃ t, exec (.frameGroupLJ u x y) s = .next t ∧ t.rx.joy = ⟨⟨x, y⟩, s.rx.joy.right⟩ ∧
      t.rx.trig = s.rx.trig ∧ t.rx.btn = s.rx.btn ∧ t.rx.click = s.rx.click ∧
      t.rx.curByte = t.rx.numBytes ∧ sameButRx s t) ∧
    (∃ t, exec (.frameGroupRJ u x y) s = .next t ∧ t.rx.joy = ⟨s.rx.joy.left, ⟨x, y⟩⟩ ∧
      t.rx.trig = s.rx.trig ∧ t.rx.btn = s.rx.btn ∧ t.rx.click = s.rx.click ∧
      t.rx.curByte = t.rx.numBytes ∧ sameButRx s t) ∧
    (∃ t, exec (.frameGroupLT u x) s = .next t ∧ t.rx.trig = ⟨x, s.rx.trig.right⟩ ∧
      t.rx.joy = s.rx.joy ∧ t.rx.btn = s.rx.btn ∧ t.rx.click = s.rx.click ∧
      t.rx.curByte = t.rx.numBytes ∧ sameButRx s t) ∧
    (∃ t, exec (.frameGroupRT u x) s = .next t ∧ t.rx.trig = ⟨s.rx.trig.left, x⟩ ∧
      t.rx.joy = s.rx.joy ∧ t.rx.btn = s.rx.btn ∧ t.rx.click = s.rx.click ∧
      t.rx.curByte = t.rx.numBytes ∧ sameButRx s t) ∧
    (∃ t, exec (.frameGroupLB u x) s = .next t ∧ t.rx.btn = ⟨x, s.rx.btn.right⟩ ∧
      t.rx.click = ⟨s.rx.click.left ||| (x &&& ~~~s.rx.btn.left), s.rx.click.right⟩ ∧
      t.rx.joy = s.rx.joy ∧ t.rx.trig = s.rx.trig ∧
      t.rx.curByte = t.rx.numBytes ∧ sameButRx s t) ∧
    (∃ t, exec (.frameGroupRB u x) s = .next t ∧ t.rx.btn = ⟨s.rx.btn.left, x⟩ ∧
      t.rx.click = ⟨s.rx.click.left, s.rx.click.right ||| (x &&& ~~~s.rx.btn.right)⟩ ∧
      t.rx.joy = s.rx.joy ∧ t.rx.trig = s.rx.trig ∧
      t.rx.curByte = t.rx.numBytes ∧ sameButRx s t)

/-- A single wire byte is a header in ExpectingHeader and a data byte in ReceivingBody, whatever the sender
meant it for (R93, R105; assumption 7). -/
def Obligations.WireByteIsTakenByTheParserState : Prop :=
  ∀ (x : Byte) (s : State) (i : Instr),
    i = .wireHeader x ∨ i = .wireJoyByte x ∨ i = .wireTrigByte x ∨ i = .wireBtnByte x →
    (s.rx.curByte = s.rx.numBytes → exec i s = exec (.rxHeaderStep x) s) ∧
    (s.rx.curByte ≠ s.rx.numBytes → exec i s = exec (.rxBodyStep x) s)

/-- R97: a header with no group bit is a whole packet: RX still expects a header. That the wire row is what RX
does with the byte, and that the time and every other register stay, is the model's choice of what a wire element
does (assumptions 7 and 9); an RX_POLL that brings the byte sets lastReceive (R93). -/
def Obligations.HeaderWithoutGroupsIsAWholePacket : Prop :=
  ∀ (h : Byte) (s : State), s.rx.curByte = s.rx.numBytes → h &&& 0x3F = 0 →
    exec (.wireHeader h) s = .next { s with rx := { s.rx with numBytes := 0, curByte := 0 } }

/-- R121, with the values of R34: reset of a unit sets every register of it and does nothing else. -/
def Obligations.ResetSetsEveryRegisterOfItsUnit : Prop :=
  ∀ s : State,
    exec (.reset .tx) s = .next { s with tx := {
      joy := ⟨⟨0, 0⟩, ⟨0, 0⟩⟩, trig := ⟨0, 0⟩, btn := ⟨0x00, 0x00⟩, dirty := 0x00,
      lastSend := 0, lastFull := 0 } } ∧
    exec (.reset .rx) s = .next { s with rx := {
      joy := ⟨⟨0x00, 0x00⟩, ⟨0x00, 0x00⟩⟩, trig := ⟨0x00, 0x00⟩, btn := ⟨0x00, 0x00⟩,
      click := ⟨0x00, 0x00⟩, targets := Vector.replicate 8 .jlx, numBytes := 0, curByte := 0,
      lastReceive := 0 } }

/-- R60, R108: the six reserved opcodes write no register and emit no byte; the run is marked, with
RESERVED_OPCODE and the whole command word (assumptions 3 and 17). The outcome of the step that runs one is the
refusal (CommandsOutsideTheMapAreRefused). -/
def Obligations.ReservedOpcodesOnlyMarkTheRun : Prop :=
  ∀ (low : BitVec 12) (s : State) (i : Instr) (op : BitVec 4),
    (i, op) ∈ [(.reservedOp0 low, 0x0#4), (.reservedOp5 low, 0x5#4), (.reservedOp6 low, 0x6#4),
      (.reservedOp7 low, 0x7#4), (.reservedOpE low, 0xE#4), (.reservedOpF low, 0xF#4)] →
    exec i s = .next { s with refusals := s.refusals ++ [⟨.reservedOpcode, op ++ low, none⟩] }

/-! ### The whole machine -/

/-- R107, R108, R120: a step never faults. It ends in a next state, or in the refusal of a marked run that carries
the state (assumption 3); in a run not marked, it ends in a next state whenever the next input is no command that
R60 refuses. -/
def Obligations.EveryStepEndsWithoutAFault : Prop :=
  ∀ s : State, ∃ t, (step s = .next t ∨ step s = .refused (.runRefused t)) ∧
    (s.refusals = [] →
      (∀ input inputs, s.inputs = input :: inputs →
        (∀ i more, decodeInput (rxRole s.rx) input = .instr i more → i.wellFormed = true) ∧
        ∀ r, decodeInput (rxRole s.rx) input ≠ .refused r) →
      step s = .next t)

/-- R108: the refusal mark is never cleared, and what has been emitted or returned stays: the three lists only
grow, at their ends. A step answers a next state only while the run is not marked; from a marked run every step is
refused, so no claim about it can be proved (assumptions 3, 12 and 13). -/
def Obligations.RefusalMarkIsNeverCleared : Prop :=
  ∀ s t : State, step s = .next t ∨ step s = .refused (.runRefused t) →
    s.refusals <+: t.refusals ∧ s.out <+: t.out ∧ s.returned <+: t.returned ∧
    (step s = .next t ↔ t.refusals = []) ∧
    (s.refusals ≠ [] → step s = .refused (.runRefused t))

/-- R108, R113: an instruction is refused exactly when it is not well formed, and then it writes no register,
emits no byte and returns no value (assumption 3). A run answers a next state exactly when it was not marked at its
start and every instruction of it is well formed; any other run is refused, with the state its effects lead to
(R135), so no claim about it can be proved. -/
def Obligations.RefusedExactlyWhenIllFormed : Prop :=
  (∀ (i : Instr) (s t : State), exec i s = .next t →
    (i.wellFormed = true → t.refusals = s.refusals) ∧
    (i.wellFormed = false → ∃ r, t = { s with refusals := s.refusals ++ [r] })) ∧
  ∀ (ops : List Instr) (s : State), ∃ t,
    (s.refusals = [] ∧ (∀ i ∈ ops, i.wellFormed = true) → runAll ops s = .next t) ∧
    (s.refusals ≠ [] ∨ (∃ i ∈ ops, i.wellFormed = false) → runAll ops s = .refused (.runRefused t))

/-- R13: TX operations leave RX alone; RX operations leave TX and its output stream alone. -/
def Obligations.UnitsShareNoState : Prop :=
  ∀ (i : Instr) (s t : State), exec i s = .next t →
    (isTxOp i = true → t.rx = s.rx ∧ t.returned = s.returned) ∧
    (isRxOp i = true → t.tx = s.tx ∧ t.out = s.out)

/-- R36: two operations on the two units give the same in either order, but for the order in which a refusal
of each is recorded. -/
def Obligations.UnitsInterleaveFreely : Prop :=
  ∀ (i j : Instr) (s s1 s2 t1 t2 : State), isTxOp i = true → isRxOp j = true →
    exec i s = .next s1 → exec j s1 = .next s2 → exec j s = .next t1 → exec i t1 = .next t2 →
    s2.tx = t2.tx ∧ s2.rx = t2.rx ∧ s2.out = t2.out ∧ s2.returned = t2.returned ∧
    (s2.refusals ≠ [] ↔ t2.refusals ≠ [])

/-- R91: the four accessors never parse and never move a timestamp; of the RX registers only a click mask can
change, and only by RX_GET_CLICK. -/
def Obligations.AccessorsNeverParse : Prop :=
  ∀ (i : Instr) (s t : State), isRxOp i = true → (∀ now bytes, i ≠ .rxPoll now bytes) →
    (∀ now bytes, i ≠ .rxConnected now bytes) → exec i s = .next t →
    t.rx = { s.rx with click := t.rx.click } ∧ ((∀ side b, i ≠ .rxGetClick side b) → t.rx = s.rx)

/-- The registers are as R15 to R18 and R25 to R27 say they always are. -/
def Obligations.ResetMeetsTheRegisterInvariant : Prop :=
  State.reset.regsOk

/-- R15 to R18, R25 to R27: every step keeps the analog registers in their domains, bits 7:6 of the TX button
bytes and of the dirty header at 0, curByte ≤ numBytes ≤ 8, and the target list a header's. -/
def Obligations.StepKeepsTheRegisterInvariant : Prop :=
  ∀ s t : State, s.regsOk → step s = .next t → t.regsOk

/-- R47, R49, R55, R83: with the registers as they always are, every step keeps the output stream a sequence of
whole frames, none headed 0x00, each header with bits 7:6 at 0. -/
def Obligations.StepKeepsTheOutputWholeFrames : Prop :=
  ∀ s t : State, s.regsOk → WholeFrames s.out → step s = .next t → WholeFrames t.out

/-- A frame of any header, received where RX expects a header or after a gap above 2 ms, fills exactly its
targets with the bytes TX holds for them, leaves every other field, and ends in ExpectingHeader
(R71, R93 to R95; the channel is ideal, R44). -/
def Obligations.ReceivedFrameFillsExactlyItsTargets : Prop :=
  ∀ (h : Byte) (tx : TxRegs) (now : Time) (s : State),
    s.rx.curByte = s.rx.numBytes ∨ 2 < (now - s.rx.lastReceive).toNat →
    ∃ t, exec (.rxPoll now (encodeFrame h tx)) s = .next t ∧
      (∀ u, fieldAt t.rx u = if u ∈ headerTargets h then byteOf tx u else fieldAt s.rx u) ∧
      t.rx.curByte = t.rx.numBytes ∧ t.rx.lastReceive = now ∧ sameButRx s t

/-- The round trip of R44 and V-SRC-2: when a tick emits a frame and RX receives it over an ideal channel, every
field the frame carries reads back on RX within 1/255 (joystick), 1/510 (trigger) or exactly (buttons),
and every other RX field is as before. -/
def Obligations.SentFieldsReadBackWithinTolerance : Prop :=
  ∀ (now at_ : Time) (s s1 : State) (frame : List Byte), s.tx.inDomain →
    exec (.txUpdate now) s = .next s1 → s1.out = s.out ++ frame → frame ≠ [] →
    s.rx.curByte = s.rx.numBytes ∨ 2 < (at_ - s.rx.lastReceive).toNat →
    ∃ (h : Byte) (body : List Byte) (t : State), frame = h :: body ∧ exec (.rxPoll at_ frame) s1 = .next t ∧
      (∀ side a, if h.getLsbD (groupBit (if side = .left then .lj else .rj)) = true
        then |decJ (joyGet t.rx.joy side a) - joyGet s.tx.joy side a| ≤ 1 / 255
        else joyGet t.rx.joy side a = joyGet s.rx.joy side a) ∧
      (∀ side, if h.getLsbD (groupBit (if side = .left then .lt else .rt)) = true
        then |decT (t.rx.trig.get side) - s.tx.trig.get side| ≤ 1 / 510
        else t.rx.trig.get side = s.rx.trig.get side) ∧
      (∀ side, if h.getLsbD (groupBit (if side = .left then .lb else .rb)) = true
        then t.rx.btn.get side = s.tx.btn.get side
        else t.rx.btn.get side = s.rx.btn.get side)

/-- A heartbeat and its deferred half, received over an ideal channel, refresh every field of RX, whatever RX
held before (R85, R86, R93 to R95). -/
def Obligations.HeartbeatRefreshesEveryField : Prop :=
  ∀ (T now at1 at2 : Time) (s s1 s2 : State) (f1 f2 : List Byte),
    exec (.fullSend T) s = .next s1 → s1.out = s.out ++ f1 →
    20 < (now - T).toNat → (now - T).toNat ≤ 800 →
    exec (.txUpdate now) s1 = .next s2 → s2.out = s1.out ++ f2 →
    2 < (at1 - s.rx.lastReceive).toNat → 2 < (at2 - at1).toNat →
    ∃ t1 t2, exec (.rxPoll at1 f1) s2 = .next t1 ∧ exec (.rxPoll at2 f2) t1 = .next t2 ∧
      ∀ u, fieldAt t2.rx u = byteOf s.tx u
end

