-- ==== Sys2Proof/Laws/State.lean ====
section
/-! SUPPORT. One lemma per field per update, so that no later proof unfolds a record update. -/

namespace Sys2Proof.Machine

/-! ### Registers by side and axis -/

@[simp] theorem PerAxis.get_set_same {α : Type} (r : PerAxis α) (a : Axis) (v : α) : (r.set a v).get a = v := by
  cases a <;> rfl

theorem PerAxis.get_set_other {α : Type} (r : PerAxis α) {a a' : Axis} (h : a' ≠ a) (v : α) :
    (r.set a v).get a' = r.get a' := by
  cases a <;> cases a' <;> first | rfl | exact absurd rfl h

@[simp] theorem PerSide.get_set_same {α : Type} (r : PerSide α) (s : Side) (v : α) : (r.set s v).get s = v := by
  cases s <;> rfl

theorem PerSide.get_set_other {α : Type} (r : PerSide α) {s s' : Side} (h : s' ≠ s) (v : α) :
    (r.set s v).get s' = r.get s' := by
  cases s <;> cases s' <;> first | rfl | exact absurd rfl h

@[simp] theorem joyGet_joySet_same {α : Type} (r : PerSide (PerAxis α)) (s : Side) (a : Axis) (v : α) :
    joyGet (joySet r s a v) s a = v := by
  cases s <;> cases a <;> rfl

theorem joyGet_joySet_other {α : Type} (r : PerSide (PerAxis α)) {s s' : Side} {a a' : Axis}
    (h : (s', a') ≠ (s, a)) (v : α) : joyGet (joySet r s a v) s' a' = joyGet r s' a' := by
  cases s <;> cases s' <;> cases a <;> cases a' <;> first | rfl | exact absurd rfl h

/-! ### `emit` -/

@[simp] theorem emit_tx (b : Byte) (s : State) : (emit b s).tx = s.tx := rfl
@[simp] theorem emit_rx (b : Byte) (s : State) : (emit b s).rx = s.rx := rfl
@[simp] theorem emit_out (b : Byte) (s : State) : (emit b s).out = s.out ++ [b] := rfl
@[simp] theorem emit_returned (b : Byte) (s : State) : (emit b s).returned = s.returned := rfl
@[simp] theorem emit_refusals (b : Byte) (s : State) : (emit b s).refusals = s.refusals := rfl
@[simp] theorem emit_inputs (b : Byte) (s : State) : (emit b s).inputs = s.inputs := rfl

/-! ### `returnValue` -/

@[simp] theorem returnValue_tx (v : ReturnValue) (s : State) : (returnValue v s).tx = s.tx := rfl
@[simp] theorem returnValue_rx (v : ReturnValue) (s : State) : (returnValue v s).rx = s.rx := rfl
@[simp] theorem returnValue_out (v : ReturnValue) (s : State) : (returnValue v s).out = s.out := rfl
@[simp] theorem returnValue_returned (v : ReturnValue) (s : State) : (returnValue v s).returned = s.returned ++ [v] := rfl
@[simp] theorem returnValue_refusals (v : ReturnValue) (s : State) : (returnValue v s).refusals = s.refusals := rfl
@[simp] theorem returnValue_inputs (v : ReturnValue) (s : State) : (returnValue v s).inputs = s.inputs := rfl

/-! ### `refuse` -/

@[simp] theorem refuse_tx (r : RefuseReason) (w : CmdWord) (v : Option Analog) (s : State) : (refuse r w v s).tx = s.tx := rfl
@[simp] theorem refuse_rx (r : RefuseReason) (w : CmdWord) (v : Option Analog) (s : State) : (refuse r w v s).rx = s.rx := rfl
@[simp] theorem refuse_out (r : RefuseReason) (w : CmdWord) (v : Option Analog) (s : State) : (refuse r w v s).out = s.out := rfl
@[simp] theorem refuse_returned (r : RefuseReason) (w : CmdWord) (v : Option Analog) (s : State) : (refuse r w v s).returned = s.returned := rfl
@[simp] theorem refuse_refusals (r : RefuseReason) (w : CmdWord) (v : Option Analog) (s : State) : (refuse r w v s).refusals = s.refusals ++ [⟨r, w, v⟩] := rfl
@[simp] theorem refuse_inputs (r : RefuseReason) (w : CmdWord) (v : Option Analog) (s : State) : (refuse r w v s).inputs = s.inputs := rfl

/-! ### `markDirty` -/

@[simp] theorem markDirty_joy (m : Byte) (tx : TxRegs) : (markDirty m tx).joy = tx.joy := rfl
@[simp] theorem markDirty_trig (m : Byte) (tx : TxRegs) : (markDirty m tx).trig = tx.trig := rfl
@[simp] theorem markDirty_btn (m : Byte) (tx : TxRegs) : (markDirty m tx).btn = tx.btn := rfl
@[simp] theorem markDirty_dirty (m : Byte) (tx : TxRegs) : (markDirty m tx).dirty = tx.dirty ||| m := rfl
@[simp] theorem markDirty_lastSend (m : Byte) (tx : TxRegs) : (markDirty m tx).lastSend = tx.lastSend := rfl
@[simp] theorem markDirty_lastFull (m : Byte) (tx : TxRegs) : (markDirty m tx).lastFull = tx.lastFull := rfl

/-! ### `markDirtyOp` -/

@[simp] theorem markDirtyOp_tx (m : Byte) (s : State) : (markDirtyOp m s).tx = markDirty m s.tx := rfl
@[simp] theorem markDirtyOp_rx (m : Byte) (s : State) : (markDirtyOp m s).rx = s.rx := rfl
@[simp] theorem markDirtyOp_out (m : Byte) (s : State) : (markDirtyOp m s).out = s.out := rfl
@[simp] theorem markDirtyOp_returned (m : Byte) (s : State) : (markDirtyOp m s).returned = s.returned := rfl
@[simp] theorem markDirtyOp_refusals (m : Byte) (s : State) : (markDirtyOp m s).refusals = s.refusals := rfl
@[simp] theorem markDirtyOp_inputs (m : Byte) (s : State) : (markDirtyOp m s).inputs = s.inputs := rfl

/-! ### `emitAll` -/

theorem emitAll_eq (bytes : List Byte) (s : State) : emitAll bytes s = { s with out := s.out ++ bytes } := by
  induction bytes generalizing s with
  | nil => simp [emitAll]
  | cons b bytes ih => rw [emitAll, ih]; simp [emit]

@[simp] theorem emitAll_tx (bytes : List Byte) (s : State) : (emitAll bytes s).tx = s.tx := by
  rw [emitAll_eq]
@[simp] theorem emitAll_rx (bytes : List Byte) (s : State) : (emitAll bytes s).rx = s.rx := by
  rw [emitAll_eq]
@[simp] theorem emitAll_out (bytes : List Byte) (s : State) : (emitAll bytes s).out = s.out ++ bytes := by
  rw [emitAll_eq]
@[simp] theorem emitAll_returned (bytes : List Byte) (s : State) : (emitAll bytes s).returned = s.returned := by
  rw [emitAll_eq]
@[simp] theorem emitAll_refusals (bytes : List Byte) (s : State) : (emitAll bytes s).refusals = s.refusals := by
  rw [emitAll_eq]
@[simp] theorem emitAll_inputs (bytes : List Byte) (s : State) : (emitAll bytes s).inputs = s.inputs := by
  rw [emitAll_eq]

/-! ### `headerStep` -/

@[simp] theorem headerStep_joy (x : Byte) (rx : RxRegs) : (headerStep x rx).joy = rx.joy := rfl
@[simp] theorem headerStep_trig (x : Byte) (rx : RxRegs) : (headerStep x rx).trig = rx.trig := rfl
@[simp] theorem headerStep_btn (x : Byte) (rx : RxRegs) : (headerStep x rx).btn = rx.btn := rfl
@[simp] theorem headerStep_click (x : Byte) (rx : RxRegs) : (headerStep x rx).click = rx.click := rfl
@[simp] theorem headerStep_targets (x : Byte) (rx : RxRegs) : (headerStep x rx).targets = writeTargets 0 (headerTargets x) rx.targets := rfl
@[simp] theorem headerStep_numBytes (x : Byte) (rx : RxRegs) : (headerStep x rx).numBytes = BitVec.ofNat 4 (headerLen x) := rfl
@[simp] theorem headerStep_curByte (x : Byte) (rx : RxRegs) : (headerStep x rx).curByte = 0 := rfl
@[simp] theorem headerStep_lastReceive (x : Byte) (rx : RxRegs) : (headerStep x rx).lastReceive = rx.lastReceive := rfl

/-! ### `buttonWrite` -/

@[simp] theorem buttonWrite_joy (side : Side) (x : Byte) (rx : RxRegs) : (buttonWrite side x rx).joy = rx.joy := rfl
@[simp] theorem buttonWrite_trig (side : Side) (x : Byte) (rx : RxRegs) : (buttonWrite side x rx).trig = rx.trig := rfl
@[simp] theorem buttonWrite_btn (side : Side) (x : Byte) (rx : RxRegs) : (buttonWrite side x rx).btn = rx.btn.set side x := rfl
@[simp] theorem buttonWrite_click (side : Side) (x : Byte) (rx : RxRegs) : (buttonWrite side x rx).click = rx.click.set side (rx.click.get side ||| rise (rx.btn.get side) x) := rfl
@[simp] theorem buttonWrite_targets (side : Side) (x : Byte) (rx : RxRegs) : (buttonWrite side x rx).targets = rx.targets := rfl
@[simp] theorem buttonWrite_numBytes (side : Side) (x : Byte) (rx : RxRegs) : (buttonWrite side x rx).numBytes = rx.numBytes := rfl
@[simp] theorem buttonWrite_curByte (side : Side) (x : Byte) (rx : RxRegs) : (buttonWrite side x rx).curByte = rx.curByte := rfl
@[simp] theorem buttonWrite_lastReceive (side : Side) (x : Byte) (rx : RxRegs) : (buttonWrite side x rx).lastReceive = rx.lastReceive := rfl

/-! ### `advance` -/

@[simp] theorem advance_joy  (rx : RxRegs) : (advance rx).joy = rx.joy := rfl
@[simp] theorem advance_trig  (rx : RxRegs) : (advance rx).trig = rx.trig := rfl
@[simp] theorem advance_btn  (rx : RxRegs) : (advance rx).btn = rx.btn := rfl
@[simp] theorem advance_click  (rx : RxRegs) : (advance rx).click = rx.click := rfl
@[simp] theorem advance_targets  (rx : RxRegs) : (advance rx).targets = rx.targets := rfl
@[simp] theorem advance_numBytes  (rx : RxRegs) : (advance rx).numBytes = rx.numBytes := rfl
@[simp] theorem advance_curByte  (rx : RxRegs) : (advance rx).curByte = rx.curByte + 1 := rfl
@[simp] theorem advance_lastReceive  (rx : RxRegs) : (advance rx).lastReceive = rx.lastReceive := rfl

/-! ### `pollOp` -/

@[simp] theorem pollOp_tx (now : Time) (bytes : List Byte) (s : State) : (pollOp now bytes s).tx = s.tx := rfl
@[simp] theorem pollOp_rx (now : Time) (bytes : List Byte) (s : State) : (pollOp now bytes s).rx = pollRegs now bytes s.rx := rfl
@[simp] theorem pollOp_out (now : Time) (bytes : List Byte) (s : State) : (pollOp now bytes s).out = s.out := rfl
@[simp] theorem pollOp_returned (now : Time) (bytes : List Byte) (s : State) : (pollOp now bytes s).returned = s.returned := rfl
@[simp] theorem pollOp_refusals (now : Time) (bytes : List Byte) (s : State) : (pollOp now bytes s).refusals = s.refusals := rfl
@[simp] theorem pollOp_inputs (now : Time) (bytes : List Byte) (s : State) : (pollOp now bytes s).inputs = s.inputs := rfl

/-! ### `consumeOp` -/

@[simp] theorem consumeOp_tx (bytes : List Byte) (s : State) : (consumeOp bytes s).tx = s.tx := rfl
@[simp] theorem consumeOp_rx (bytes : List Byte) (s : State) : (consumeOp bytes s).rx = parseBytes bytes s.rx := rfl
@[simp] theorem consumeOp_out (bytes : List Byte) (s : State) : (consumeOp bytes s).out = s.out := rfl
@[simp] theorem consumeOp_returned (bytes : List Byte) (s : State) : (consumeOp bytes s).returned = s.returned := rfl
@[simp] theorem consumeOp_refusals (bytes : List Byte) (s : State) : (consumeOp bytes s).refusals = s.refusals := rfl
@[simp] theorem consumeOp_inputs (bytes : List Byte) (s : State) : (consumeOp bytes s).inputs = s.inputs := rfl

/-! ### `routeByte`: the parser's own registers are left alone -/

@[simp] theorem routeByte_targets (t : Target) (x : Byte) (rx : RxRegs) : (routeByte t x rx).targets = rx.targets := by
  cases t <;> rfl
@[simp] theorem routeByte_numBytes (t : Target) (x : Byte) (rx : RxRegs) : (routeByte t x rx).numBytes = rx.numBytes := by
  cases t <;> rfl
@[simp] theorem routeByte_curByte (t : Target) (x : Byte) (rx : RxRegs) : (routeByte t x rx).curByte = rx.curByte := by
  cases t <;> rfl
@[simp] theorem routeByte_lastReceive (t : Target) (x : Byte) (rx : RxRegs) : (routeByte t x rx).lastReceive = rx.lastReceive := by
  cases t <;> rfl

/-! ### `resetOp` -/

@[simp] theorem resetOp_tx_tx (s : State) : (resetOp .tx s).tx = TxRegs.reset := rfl
@[simp] theorem resetOp_tx_rx (s : State) : (resetOp .tx s).rx = s.rx := rfl
@[simp] theorem resetOp_tx_out (s : State) : (resetOp .tx s).out = s.out := rfl
@[simp] theorem resetOp_tx_returned (s : State) : (resetOp .tx s).returned = s.returned := rfl
@[simp] theorem resetOp_tx_refusals (s : State) : (resetOp .tx s).refusals = s.refusals := rfl
@[simp] theorem resetOp_tx_inputs (s : State) : (resetOp .tx s).inputs = s.inputs := rfl
@[simp] theorem resetOp_rx_tx (s : State) : (resetOp .rx s).tx = s.tx := rfl
@[simp] theorem resetOp_rx_rx (s : State) : (resetOp .rx s).rx = RxRegs.reset := rfl
@[simp] theorem resetOp_rx_out (s : State) : (resetOp .rx s).out = s.out := rfl
@[simp] theorem resetOp_rx_returned (s : State) : (resetOp .rx s).returned = s.returned := rfl
@[simp] theorem resetOp_rx_refusals (s : State) : (resetOp .rx s).refusals = s.refusals := rfl
@[simp] theorem resetOp_rx_inputs (s : State) : (resetOp .rx s).inputs = s.inputs := rfl

end Sys2Proof.Machine
end

