-- ==== Sys2Proof/Laws/Ops.lean ====
section
/-! SUPPORT. One lemma per shared operation that says everything it can do; proofs cite these instead of
unfolding the operation. -/

namespace Sys2Proof.Machine

/-! ### Operand tests -/

theorem outsideJoyDomain_eq_true (v : Analog) : outsideJoyDomain v = true ↔ v < -1 ∨ 1 < v := by
  simp [outsideJoyDomain]

theorem outsideTrigDomain_eq_true (v : Analog) : outsideTrigDomain v = true ↔ v < 0 ∨ 1 < v := by
  simp [outsideTrigDomain]

theorem outsideJoyDomain_eq_false (v : Analog) : outsideJoyDomain v = false ↔ -1 ≤ v ∧ v ≤ 1 := by
  simp [outsideJoyDomain]

theorem outsideTrigDomain_eq_false (v : Analog) : outsideTrigDomain v = false ↔ 0 ≤ v ∧ v ≤ 1 := by
  simp [outsideTrigDomain]

theorem changed_eq_true (new old : Analog) : changed new old = true ↔ 3 / 1000 < |new - old| :=
  decide_eq_true_iff

theorem changed_eq_false (new old : Analog) : changed new old = false ↔ |new - old| ≤ 3 / 1000 :=
  decide_eq_false_iff_not.trans not_lt

theorem buttonReserved_eq_true (b : ButtonId) : buttonReserved b = true ↔ 5 < b.toNat :=
  decide_eq_true_iff

theorem buttonReserved_eq_false (b : ButtonId) : buttonReserved b = false ↔ b.toNat ≤ 5 :=
  decide_eq_false_iff_not.trans not_lt

/-! ### SEND and FULLSEND -/

theorem sendOp_eq (now : Time) (s : State) :
    sendOp now s =
      { s with
        tx := { s.tx with dirty := 0x00, lastSend := now }
        out := s.out ++ encodeFrame s.tx.dirty s.tx } := by
  simp [sendOp, emitAll_eq]

/-- The frame depends on the value registers alone. -/
theorem encodeFrame_markDirty (h m : Byte) (tx : TxRegs) : encodeFrame h (markDirty m tx) = encodeFrame h tx := by
  have : byteOf (markDirty m tx) = byteOf tx := by funext t; cases t <;> rfl
  simp [encodeFrame, this]

theorem fullSendOp_eq (now : Time) (s : State) :
    fullSendOp now s =
      { s with
        tx := { s.tx with dirty := 0x2A, lastSend := now, lastFull := now }
        out := s.out ++ encodeFrame (s.tx.dirty ||| 0x15) s.tx } := by
  simp [fullSendOp, sendOp_eq, markDirtyOp, markDirty, rightMask, leftMask]
  simpa [markDirty] using encodeFrame_markDirty (s.tx.dirty ||| 0x15#8) 0x15 s.tx

/-- The scheduler does nothing, runs FULLSEND, or runs SEND with something dirty (R82). -/
theorem updateOp_cases (now : Time) (s : State) :
    updateOp now s = s
      ∨ (20 < el now s.tx.lastSend ∧ 800 < el now s.tx.lastFull ∧ updateOp now s = fullSendOp now s)
      ∨ (20 < el now s.tx.lastSend ∧ el now s.tx.lastFull ≤ 800 ∧
          partialSendDue s.tx.dirty (el now s.tx.lastSend) = true ∧ updateOp now s = sendOp now s) := by
  simp only [updateOp, Config.minInterval, Config.maxInterval]
  by_cases h1 : el now s.tx.lastSend ≤ 20
  · simp [h1]
  · by_cases h2 : 800 < el now s.tx.lastFull
    · simp only [h1, h2, if_true, if_false]; exact .inr (.inl ⟨by omega, trivial, trivial⟩)
    · by_cases h3 : partialSendDue s.tx.dirty (el now s.tx.lastSend) = true
      · simp only [h1, h2, h3, if_true, if_false]
        exact .inr (.inr ⟨by omega, by omega, trivial, trivial⟩)
      · simp [h1, h2, h3]

theorem partialSendDue_eq_true (d : Byte) (n : Nat) :
    partialSendDue d n = true ↔ (d &&& 0x30 ≠ 0 ∨ (d ≠ 0 ∧ 50 < n)) := by
  simp [partialSendDue, nonanalogMask]

/-- Step 1 (R82). -/
theorem updateOp_floor {now : Time} {s : State} (h : el now s.tx.lastSend ≤ 20) : updateOp now s = s :=
  if_pos h

/-- Step 2 (R82). -/
theorem updateOp_heartbeat {now : Time} {s : State} (h1 : 20 < el now s.tx.lastSend)
    (h2 : 800 < el now s.tx.lastFull) : updateOp now s = fullSendOp now s :=
  (if_neg (Nat.not_le.2 h1)).trans (if_pos h2)

/-- Step 3 (R82). -/
theorem updateOp_partial {now : Time} {s : State} (h1 : 20 < el now s.tx.lastSend)
    (h2 : el now s.tx.lastFull ≤ 800) (h3 : partialSendDue s.tx.dirty (el now s.tx.lastSend) = true) :
    updateOp now s = sendOp now s :=
  (if_neg (Nat.not_le.2 h1)).trans ((if_neg (Nat.not_lt.2 h2)).trans (if_pos h3))

/-- Step 4 (R82). -/
theorem updateOp_idle {now : Time} {s : State} (h1 : 20 < el now s.tx.lastSend)
    (h2 : el now s.tx.lastFull ≤ 800) (h3 : ¬ partialSendDue s.tx.dirty (el now s.tx.lastSend) = true) :
    updateOp now s = s :=
  (if_neg (Nat.not_le.2 h1)).trans ((if_neg (Nat.not_lt.2 h2)).trans (if_neg h3))

theorem dirty_ne_zero_of_partialSendDue {d : Byte} {n : Nat} (h : partialSendDue d n = true) : d ≠ 0 := by
  rintro rfl
  simp [partialSendDue] at h

/-! ### The parser -/

@[simp] theorem parseBytes_nil (rx : RxRegs) : parseBytes [] rx = rx := rfl

@[simp] theorem parseBytes_cons (x : Byte) (bytes : List Byte) (rx : RxRegs) :
    parseBytes (x :: bytes) rx = parseBytes bytes (parseByte rx x) := rfl

theorem parseBytes_append (a b : List Byte) (rx : RxRegs) :
    parseBytes (a ++ b) rx = parseBytes b (parseBytes a rx) := by
  simp [parseBytes]

@[simp] theorem parseByte_lastReceive (rx : RxRegs) (x : Byte) : (parseByte rx x).lastReceive = rx.lastReceive := by
  unfold parseByte
  split
  · rfl
  · simp [bodyStep]

@[simp] theorem parseBytes_lastReceive (bytes : List Byte) (rx : RxRegs) :
    (parseBytes bytes rx).lastReceive = rx.lastReceive := by
  induction bytes generalizing rx with
  | nil => rfl
  | cons x bytes ih => simp [ih]

@[simp] theorem timeoutResync_lastReceive (now : Time) (bytes : List Byte) (rx : RxRegs) :
    (timeoutResync now bytes rx).lastReceive = rx.lastReceive := by
  unfold timeoutResync; split <;> rfl

/-- An entry of the target list after HeaderStep has written: a new one inside the list, the old one behind. -/
theorem getElem_writeTargets (ts : List Target) (i k : Nat) (regs : Vector Target Config.nTargets)
    (hk : k < Config.nTargets) :
    (writeTargets i ts regs)[k] = if h : i ≤ k ∧ k - i < ts.length then ts[k - i] else regs[k] := by
  induction ts generalizing i regs with
  | nil => simp [writeTargets]
  | cons t ts ih =>
    rw [writeTargets, ih]
    by_cases h1 : i = k
    · subst h1
      simp only [Nat.sub_self, List.length_cons]
      rw [dif_neg (by omega), dif_pos (by omega)]
      simp
    · by_cases h2 : i < k
      · have h3 : k - i = (k - (i + 1)) + 1 := by omega
        have hset : (regs.setIfInBounds i t)[k] = regs[k] := by
          simp [h1]
        simp only [hset, List.length_cons]
        by_cases h4 : k - (i + 1) < ts.length
        · rw [dif_pos ⟨by omega, h4⟩, dif_pos ⟨by omega, by omega⟩]
          simp [h3]
        · rw [dif_neg (by omega), dif_neg (by omega)]
      · have hset : (regs.setIfInBounds i t)[k] = regs[k] := by
          simp [h1]
        rw [dif_neg (by omega), dif_neg (by omega), hset]

/-- No header calls for more than N_TARGETS data bytes (R7, R55). -/
theorem headerLen_le_nTargets (h : Header) : headerLen h ≤ Config.nTargets := by
  revert h; decide

/-- `headerLen_le_nTargets` with N_TARGETS written out, for arithmetic that does not unfold constants. -/
theorem headerLen_le_eight (h : Header) : headerLen h ≤ 8 := headerLen_le_nTargets h

theorem headerTargets_length_le (h : Header) : (headerTargets h).length ≤ 8 := headerLen_le_nTargets h

/-- Each of N_GROUPS groups has a header bit of its own, below N_GROUPS (R11, R48). -/
theorem groupsInOrder_bits : groupsInOrder.map groupBit = List.range Config.nGroups := by decide

/-- The groups' targets are all N_TARGETS targets, in index order (R11, R68). -/
theorem groupTargets_indexes :
    (groupsInOrder.flatMap groupTargets).map targetIndex = List.range Config.nTargets := by decide

/-! ### Frame length -/

/-- The encoder writes as many bytes as a frame of that header has (R55, R71). -/
theorem encodeFrame_length (h : Header) (tx : TxRegs) : (encodeFrame h tx).length = frameLen h := by
  simp only [encodeFrame, List.length_cons, List.length_map, frameLen, headerLen]
  exact Nat.add_comm _ _

/-- A frame has MIN_PACKET to MAX_PACKET bytes (R7, R55). -/
theorem frameLen_bounds (h : Header) : Config.minPacket ≤ frameLen h ∧ frameLen h ≤ Config.maxPacket := by
  have := headerLen_le_eight h
  simp only [frameLen, Config.minPacket, Config.maxPacket]
  omega

/-! ### HeaderStep -/

theorem headerStep_numBytes_toNat (x : Byte) (rx : RxRegs) : (headerStep x rx).numBytes.toNat = headerLen x := by
  have := headerLen_le_eight x
  simp only [headerStep_numBytes, BitVec.toNat_ofNat]
  omega

/-- In range, the current target is the list's entry at `curByte` (R95). -/
theorem currentTarget_eq (rx : RxRegs) (h : rx.curByte.toNat < 8) : currentTarget rx = rx.targets[rx.curByte.toNat] := by
  simp only [currentTarget, Config.nTargets, Nat.mod_eq_of_lt h]

/-! ### The poll -/

/-- A poll that brings no byte changes no register (R93). -/
@[simp] theorem pollRegs_nil (now : Time) (rx : RxRegs) : pollRegs now [] rx = rx := by
  simp [pollRegs, stampReceive, timeoutResync]

/-- A poll that brings bytes: resync if the gap was long, the bytes, the time (R92, R93). -/
theorem pollRegs_of_ne_nil (now : Time) {bytes : List Byte} (h : bytes ≠ []) (rx : RxRegs) :
    pollRegs now bytes rx =
      { parseBytes bytes (if 2 < el now rx.lastReceive then { rx with numBytes := 0, curByte := 0 } else rx) with
        lastReceive := now } := by
  simp [pollRegs, stampReceive, timeoutResync, h, Config.packetTimeout]

/-- The elapsed time over numbers, TIME_WIDTH written out (R72). -/
theorem el_eq_mod (now t : Time) : el now t = (2 ^ 32 - t.toNat + now.toNat) % 2 ^ 32 := BitVec.toNat_sub now t

theorem el_self (t : Time) : el t t = 0 := by simp [el]

theorem linkUp_eq_true (now t : Time) : linkUp now t = true ↔ el now t < 1000 := decide_eq_true_iff

theorem linkUp_eq_false (now t : Time) : linkUp now t = false ↔ 1000 ≤ el now t :=
  decide_eq_false_iff_not.trans not_lt

theorem linkUp_self (t : Time) : linkUp t t = true := by rw [linkUp_eq_true, el_self]; decide

/-! ### exec -/

/-- Every instruction answers a next state (60_exceptions.md R107, R113). -/
theorem exec_isNext (i : Instr) (s : State) : ∃ t, exec i s = .next t := by
  cases i <;> exact ⟨_, rfl⟩

/-! ### The outcome in a run -/

/-- A next state in a run is the operation's own, in a run that is not refused (R108). -/
theorem inRun_eq_next {o : Host.Outcome State Fault Refusal} {t : State} :
    inRun o = .next t ↔ o = .next t ∧ t.notRefused = true := by
  cases o with
  | next s =>
    simp only [inRun]
    split <;> simp_all
    · rintro rfl; assumption
    · rintro rfl; assumption
  | fault r => simp [inRun]
  | refused r => simp [inRun]

/-- The outcome in a run, by its refusals (R108). -/
theorem inRun_next (t : State) :
    inRun (.next t) = if t.refusals = [] then .next t else .refused (.runRefused t) := by
  simp only [inRun, State.notRefused, List.isEmpty_iff]

/-- The refused operation itself ends the run's next states (R108). -/
theorem inRun_refuse (r : RefuseReason) (w : CmdWord) (v : Option Analog) (s : State) :
    inRun (.next (refuse r w v s)) = .refused (.runRefused (refuse r w v s)) := by
  simp [inRun_next]

/-- Everything a step can do: the state it has come to, and the outcome that R108 makes of it. -/
theorem step_eq (s : State) : ∃ t, step s = inRun (.next t) ∧
    (fetch s = .done t ∨ ∃ i s', fetch s = .run i s' ∧ exec i s' = .next t) := by
  unfold step
  split
  · rename_i i s' h
    obtain ⟨t, ht⟩ := exec_isNext i s'
    exact ⟨t, by rw [ht], .inr ⟨i, s', h, ht⟩⟩
  · rename_i s' h
    exact ⟨s', rfl, .inl h⟩

/-! ### Runs and histories -/

theorem execAll_nil (s : State) : execAll [] s = .next s := rfl

theorem execAll_cons {i : Instr} {s s' : State} (h : exec i s = .next s') (is : List Instr) :
    execAll (i :: is) s = execAll is s' := by
  simp only [execAll, h]

/-- Every list of instructions has its effects (60_exceptions.md R107, R113). -/
theorem execAll_isNext (ops : List Instr) (s : State) : ∃ t, execAll ops s = .next t := by
  induction ops generalizing s with
  | nil => exact ⟨s, rfl⟩
  | cons i is ih =>
    obtain ⟨s', h⟩ := exec_isNext i s
    rw [execAll_cons h]
    exact ih s'

/-- A run answers a next state exactly when its effects lead there and it is not refused (R108). -/
theorem runAll_eq_next {ops : List Instr} {s t : State} :
    runAll ops s = .next t ↔ execAll ops s = .next t ∧ t.notRefused = true := inRun_eq_next

theorem storedAlong_cons {i : Instr} {s s' : State} (h : exec i s = .next s') (side : Side) (is : List Instr) :
    storedAlong side (i :: is) s = storedBy side i s.rx ++ storedAlong side is s' := by
  simp only [storedAlong, h]

/-- A rise along two runs of bytes is one along the first, or one along the second from the first's last byte. -/
theorem risesIn_append (b : ButtonId) (old : Byte) (xs ys : List Byte) :
    risesIn b old (xs ++ ys) = (risesIn b old xs || risesIn b (xs.getLastD old) ys) := by
  induction xs generalizing old with
  | nil => simp [risesIn]
  | cons x xs ih => simp only [List.cons_append, risesIn, ih, Bool.or_assoc, List.getLastD_cons]

/-! ### Pseudo-operations -/

/-- The two expansions of `setJoystick` leave the same end state (30_encoding.md R62). -/
theorem setJoystick_order (side : Side) (x y : Analog) (s : State)
    (hx : outsideJoyDomain x = false) (hy : outsideJoyDomain y = false) :
    runAll (expandPseudo (.setJoystick side x y)) s = runAll [.txSetJoy side .y y, .txSetJoy side .x x] s := by
  simp only [expandPseudo, runAll, execAll, exec, execTxSetJoy, hx, hy, Bool.false_eq_true, if_false]
  by_cases h1 : changed x (joyGet s.tx.joy side .x) = true <;>
    by_cases h2 : changed y (joyGet s.tx.joy side .y) = true <;> cases side <;>
    simp_all [markDirty, joyGet, joySet, PerSide.get, PerSide.set, PerAxis.get, PerAxis.set, joyBit, BitVec.or_assoc]

end Sys2Proof.Machine
end

