-- ==== Sys2Proof/Laws/PerInstr.lean ====
section
/-! SUPPORT. For every instruction: the word or the first byte that the encoder writes lies on the instruction's row
of spec/opcode_table.json, by the row's match and mask. -/

namespace Sys2Proof.Laws

theorem headerByte_bit (u : BitVec 2) : headerByte u 0x01 &&& 0x01 = 0x01 ∧ headerByte u 0x02 &&& 0x02 = 0x02 ∧
    headerByte u 0x04 &&& 0x04 = 0x04 ∧ headerByte u 0x08 &&& 0x08 = 0x08 ∧
    headerByte u 0x10 &&& 0x10 = 0x10 ∧ headerByte u 0x20 &&& 0x20 = 0x20 := by
  revert u; decide

theorem byte_and_zero (x : Byte) : x &&& 0x00 = 0x00 := BitVec.and_zero

theorem wordReserved_row (low : BitVec 12) :
    wordReserved 0x0 low &&& 0xF000 = 0x0000 ∧ wordReserved 0x5 low &&& 0xF000 = 0x5000 ∧
    wordReserved 0x6 low &&& 0xF000 = 0x6000 ∧ wordReserved 0x7 low &&& 0xF000 = 0x7000 ∧
    wordReserved 0xE low &&& 0xF000 = 0xE000 ∧ wordReserved 0xF low &&& 0xF000 = 0xF000 := by
  revert low; decide +kernel

theorem wordTxSetJoy_row (s : Side) (a : Axis) : wordTxSetJoy s a &&& 0xF3FF = 0x1000 := by
  cases s <;> cases a <;> decide

theorem wordTxSetTrig_row (s : Side) : wordTxSetTrig s &&& 0xF7FF = 0x2000 := by cases s <;> decide

theorem wordTxSetBtn_row (s : Side) (b : ButtonId) (p : Bool) : wordTxSetBtn s b p &&& 0xF43F = 0x3000 := by
  revert b; cases s <;> cases p <;> decide

theorem wordRxGetJoy_row (s : Side) (a : Axis) : wordRxGetJoy s a &&& 0xF3FF = 0xA000 := by
  cases s <;> cases a <;> decide

theorem wordRxGetTrig_row (s : Side) : wordRxGetTrig s &&& 0xF7FF = 0xB000 := by cases s <;> decide

theorem wordRxGetBtn_row (s : Side) (b : ButtonId) : wordRxGetBtn s b &&& 0xF47F = 0xC000 := by
  revert b; cases s <;> decide

theorem wordRxGetClick_row (s : Side) (b : ButtonId) : wordRxGetClick s b &&& 0xF47F = 0xD000 := by
  revert b; cases s <;> decide

theorem fixedWord_row : 0x4000#16 &&& 0xFFFF = 0x4000 ∧ 0x8000#16 &&& 0xFFFF = 0x8000 ∧
    0x9000#16 &&& 0xFFFF = 0x9000 := by decide

end Sys2Proof.Laws

namespace Sys2Proof.Laws.TableRow

/-- The match and mask of a command row. -/
def commandRow : Instr → Option (CmdWord × CmdWord)
  | .txSetJoy _ _ _ => some (0x1000, 0xF3FF)
  | .txSetTrig _ _ => some (0x2000, 0xF7FF)
  | .txSetBtn _ _ _ => some (0x3000, 0xF43F)
  | .txUpdate _ => some (0x4000, 0xFFFF)
  | .rxPoll _ _ => some (0x8000, 0xFFFF)
  | .rxConnected _ _ => some (0x9000, 0xFFFF)
  | .rxGetJoy _ _ => some (0xA000, 0xF3FF)
  | .rxGetTrig _ => some (0xB000, 0xF7FF)
  | .rxGetBtn _ _ => some (0xC000, 0xF47F)
  | .rxGetClick _ _ => some (0xD000, 0xF47F)
  | .reservedOp0 _ => some (0x0000, 0xF000)
  | .reservedOp5 _ => some (0x5000, 0xF000)
  | .reservedOp6 _ => some (0x6000, 0xF000)
  | .reservedOp7 _ => some (0x7000, 0xF000)
  | .reservedOpE _ => some (0xE000, 0xF000)
  | .reservedOpF _ => some (0xF000, 0xF000)
  | .wireHeader _ => none
  | .frameGroupLJ _ _ _ => none
  | .frameGroupRJ _ _ _ => none
  | .frameGroupLT _ _ => none
  | .frameGroupRT _ _ => none
  | .frameGroupLB _ _ => none
  | .frameGroupRB _ _ => none
  | .wireJoyByte _ => none
  | .wireTrigByte _ => none
  | .wireBtnByte _ => none
  | .send _ => none
  | .fullSend _ => none
  | .rxHeaderStep _ => none
  | .rxBodyStep _ => none
  | .reset _ => none

/-- The match and mask of a wire row. -/
def wireRow : Instr → Option (Byte × Byte)
  | .wireHeader _ => some (0x00, 0x00)
  | .frameGroupLJ _ _ _ => some (0x01, 0x01)
  | .frameGroupRJ _ _ _ => some (0x02, 0x02)
  | .frameGroupLT _ _ => some (0x04, 0x04)
  | .frameGroupRT _ _ => some (0x08, 0x08)
  | .frameGroupLB _ _ => some (0x10, 0x10)
  | .frameGroupRB _ _ => some (0x20, 0x20)
  | .wireJoyByte _ => some (0x00, 0x00)
  | .wireTrigByte _ => some (0x00, 0x00)
  | .wireBtnByte _ => some (0x00, 0x00)
  | .txSetJoy _ _ _ => none
  | .txSetTrig _ _ => none
  | .txSetBtn _ _ _ => none
  | .txUpdate _ => none
  | .rxPoll _ _ => none
  | .rxConnected _ _ => none
  | .rxGetJoy _ _ => none
  | .rxGetTrig _ => none
  | .rxGetBtn _ _ => none
  | .rxGetClick _ _ => none
  | .reservedOp0 _ => none
  | .reservedOp5 _ => none
  | .reservedOp6 _ => none
  | .reservedOp7 _ => none
  | .reservedOpE _ => none
  | .reservedOpF _ => none
  | .send _ => none
  | .fullSend _ => none
  | .rxHeaderStep _ => none
  | .rxBodyStep _ => none
  | .reset _ => none

/-- The encoding lies on the row, and an instruction without a row of that kind has no such encoding. -/
def Statement (i : Instr) : Prop :=
  (encodeWord i).map (fun w => (w &&& ((commandRow i).getD (0, 0)).2)) = (commandRow i).map (·.1) ∧
  (encodeWire i).map (fun bytes => bytes.head?.map (· &&& ((wireRow i).getD (0, 0)).2))
    = (wireRow i).map (fun row => some row.1)

theorem txSetJoy (s : Side) (a : Axis) (v : Analog) : Statement (.txSetJoy s a v) :=
  ⟨congrArg some (wordTxSetJoy_row s a), rfl⟩
theorem txSetTrig (s : Side) (v : Analog) : Statement (.txSetTrig s v) :=
  ⟨congrArg some (wordTxSetTrig_row s), rfl⟩
theorem txSetBtn (s : Side) (b : ButtonId) (p : Bool) : Statement (.txSetBtn s b p) :=
  ⟨congrArg some (wordTxSetBtn_row s b p), rfl⟩
theorem txUpdate (now : Time) : Statement (.txUpdate now) :=
  ⟨congrArg some fixedWord_row.1, rfl⟩
theorem rxPoll (now : Time) (bytes : List Byte) : Statement (.rxPoll now bytes) :=
  ⟨congrArg some fixedWord_row.2.1, rfl⟩
theorem rxConnected (now : Time) (bytes : List Byte) : Statement (.rxConnected now bytes) :=
  ⟨congrArg some fixedWord_row.2.2, rfl⟩
theorem rxGetJoy (s : Side) (a : Axis) : Statement (.rxGetJoy s a) :=
  ⟨congrArg some (wordRxGetJoy_row s a), rfl⟩
theorem rxGetTrig (s : Side) : Statement (.rxGetTrig s) :=
  ⟨congrArg some (wordRxGetTrig_row s), rfl⟩
theorem rxGetBtn (s : Side) (b : ButtonId) : Statement (.rxGetBtn s b) :=
  ⟨congrArg some (wordRxGetBtn_row s b), rfl⟩
theorem rxGetClick (s : Side) (b : ButtonId) : Statement (.rxGetClick s b) :=
  ⟨congrArg some (wordRxGetClick_row s b), rfl⟩
theorem reservedOp0 (low : BitVec 12) : Statement (.reservedOp0 low) :=
  ⟨congrArg some (wordReserved_row low).1, rfl⟩
theorem reservedOp5 (low : BitVec 12) : Statement (.reservedOp5 low) :=
  ⟨congrArg some (wordReserved_row low).2.1, rfl⟩
theorem reservedOp6 (low : BitVec 12) : Statement (.reservedOp6 low) :=
  ⟨congrArg some (wordReserved_row low).2.2.1, rfl⟩
theorem reservedOp7 (low : BitVec 12) : Statement (.reservedOp7 low) :=
  ⟨congrArg some (wordReserved_row low).2.2.2.1, rfl⟩
theorem reservedOpE (low : BitVec 12) : Statement (.reservedOpE low) :=
  ⟨congrArg some (wordReserved_row low).2.2.2.2.1, rfl⟩
theorem reservedOpF (low : BitVec 12) : Statement (.reservedOpF low) :=
  ⟨congrArg some (wordReserved_row low).2.2.2.2.2, rfl⟩
theorem wireHeader (h : Header) : Statement (.wireHeader h) :=
  ⟨rfl, congrArg (some ∘ some) (byte_and_zero h)⟩
theorem frameGroupLJ (u : BitVec 2) (x : Byte) (y : Byte) : Statement (.frameGroupLJ u x y) :=
  ⟨rfl, congrArg (some ∘ some) (headerByte_bit u).1⟩
theorem frameGroupRJ (u : BitVec 2) (x : Byte) (y : Byte) : Statement (.frameGroupRJ u x y) :=
  ⟨rfl, congrArg (some ∘ some) (headerByte_bit u).2.1⟩
theorem frameGroupLT (u : BitVec 2) (x : Byte) : Statement (.frameGroupLT u x) :=
  ⟨rfl, congrArg (some ∘ some) (headerByte_bit u).2.2.1⟩
theorem frameGroupRT (u : BitVec 2) (x : Byte) : Statement (.frameGroupRT u x) :=
  ⟨rfl, congrArg (some ∘ some) (headerByte_bit u).2.2.2.1⟩
theorem frameGroupLB (u : BitVec 2) (x : Byte) : Statement (.frameGroupLB u x) :=
  ⟨rfl, congrArg (some ∘ some) (headerByte_bit u).2.2.2.2.1⟩
theorem frameGroupRB (u : BitVec 2) (x : Byte) : Statement (.frameGroupRB u x) :=
  ⟨rfl, congrArg (some ∘ some) (headerByte_bit u).2.2.2.2.2⟩
theorem wireJoyByte (x : Byte) : Statement (.wireJoyByte x) :=
  ⟨rfl, congrArg (some ∘ some) (byte_and_zero x)⟩
theorem wireTrigByte (x : Byte) : Statement (.wireTrigByte x) :=
  ⟨rfl, congrArg (some ∘ some) (byte_and_zero x)⟩
theorem wireBtnByte (x : Byte) : Statement (.wireBtnByte x) :=
  ⟨rfl, congrArg (some ∘ some) (byte_and_zero x)⟩
theorem send (now : Time) : Statement (.send now) :=
  ⟨rfl, rfl⟩
theorem fullSend (now : Time) : Statement (.fullSend now) :=
  ⟨rfl, rfl⟩
theorem rxHeaderStep (x : Byte) : Statement (.rxHeaderStep x) :=
  ⟨rfl, rfl⟩
theorem rxBodyStep (x : Byte) : Statement (.rxBodyStep x) :=
  ⟨rfl, rfl⟩
theorem reset (u : UnitId) : Statement (.reset u) :=
  ⟨rfl, rfl⟩

end Sys2Proof.Laws.TableRow
end

