-- ==== Sys2Proof/Tests/Slice0.lean ====
section
/-! SUPPORT. The model's own tests: ill-formed terms, words written out bit by bit from 30_encoding.md R48 and R58,
single steps with the results of 95_test_vectors.md, and a witness for the hypotheses of every statement. -/

namespace Sys2Proof.Machine.Tests

/-! ### The parameters -/

/-- The table of R7, row by row (00_scope.md). -/
theorem test_parameters_ms : Config.minInterval = 20 ∧ Config.analogInterval = 50 ∧ Config.maxInterval = 800 ∧
    Config.packetTimeout = 2 ∧ Config.connectionTimeout = 1000 := by decide

theorem test_parameters_sizes : Config.timeWidth = 32 ∧ Config.headerWidth = 8 ∧ Config.nGroups = 6 ∧
    Config.nTargets = 8 ∧ Config.maxPacket = 9 ∧ Config.minPacket = 1 := by decide

theorem test_parameters_units : Config.eps = 3 / 1000 ∧ Config.joyScale * 2 = 255 ∧ Config.trigScale = 255 := by
  decide +kernel

/-- The header alone is the shortest frame, all six groups the longest (R55). -/
theorem test_frame_length : frameLen 0x01 = 3 ∧ frameLen 0x3F = Config.maxPacket ∧ frameLen 0x00 = Config.minPacket := by
  decide

/-! ### Small states -/

/-- The next state of an outcome. -/
def nextOf : Host.Outcome State Fault Refusal → Option State
  | .next s => some s
  | .fault _ => none
  | .refused _ => none

/-- The state of a run that is refused. -/
def refusedOf : Host.Outcome State Fault Refusal → Option State
  | .refused (.runRefused s) => some s
  | _ => none

/-- TX with the given scheduler registers, everything else at reset (95_test_vectors.md 2.3). -/
def txAt (lastSend lastFull : Time) (dirty : Byte) : State :=
  { State.reset with
    tx := { TxRegs.reset with lastSend := lastSend, lastFull := lastFull, dirty := dirty } }

/-- TX with a button byte of the left side as well. -/
def txLeft (b : Byte) (s : State) : State :=
  { s with tx := { s.tx with btn := ⟨b, s.tx.btn.right⟩ } }

/-- TX with the left trigger as well. -/
def txTrigLeft (v : Analog) (s : State) : State :=
  { s with tx := { s.tx with trig := ⟨v, s.tx.trig.right⟩ } }

/-- RX with the given time of the last receive, everything else at reset. -/
def rxAt (last : Time) : State := { State.reset with rx := { RxRegs.reset with lastReceive := last } }

/-- RX at place `cur` of a packet headed `h`, everything else at reset. -/
def rxMid (h : Byte) (cur : U4) : State :=
  { State.reset with rx := { headerStep h RxRegs.reset with curByte := cur } }

/-- The state after reset with one input queued. -/
def queued (input : HostInput) : State := { State.reset with inputs := [input] }

/-- The same in a run that is marked refused, for the word 0x3380 (95_test_vectors.md P5). -/
def markedRun (input : HostInput) : State := { queued input with refusals := [⟨.reservedButton, 0x3380, none⟩] }

/-- RX as V-RX-ACC-2 has it. -/
def rxRead : State :=
  { State.reset with
    rx := { RxRegs.reset with
      joy := ⟨⟨0, 0⟩, ⟨0, 0xFF⟩⟩, trig := ⟨0x80, 0⟩, btn := ⟨0x10, 0⟩, click := ⟨0x11, 0⟩ } }

/-! ### Well-formedness: one ill-formed term for each check -/

theorem test_wf_joy : Instr.wellFormed (.txSetJoy .left .x 2) = false := by decide
theorem test_wf_trig : Instr.wellFormed (.txSetTrig .left (-1)) = false := by decide
theorem test_wf_joy_bound : Instr.wellFormed (.txSetJoy .left .x (-1)) = true := by decide
theorem test_wf_trig_bound : Instr.wellFormed (.txSetTrig .left 1) = true := by decide
theorem test_wf_btn : Instr.wellFormed (.txSetBtn .left 6 true) = false := by decide
theorem test_wf_getBtn : Instr.wellFormed (.rxGetBtn .right 7) = false := by decide
theorem test_wf_getClick : Instr.wellFormed (.rxGetClick .right 6) = false := by decide
theorem test_wf_reserved : ∀ i ∈ [Instr.reservedOp0 0, .reservedOp5 0, .reservedOp6 0, .reservedOp7 0,
    .reservedOpE 0, .reservedOpF 0], i.wellFormed = false := by decide

/-! ### Decoding: words written out from R58, R48 and 95_test_vectors.md 2.7 -/

theorem test_decode_txSetJoy :
    decodeTableWord 16 0b0001110000000000 = some (.txSetJoy .right .y 0) := by decide
theorem test_decode_txSetTrig : decodeTableWord 16 0b0010100000000000 = some (.txSetTrig .right 0) := by decide
theorem test_decode_txSetBtn :
    decodeTableWord 16 0b0011001001000000 = some (.txSetBtn .left 4 true) := by decide
theorem test_decode_txSetBtn_release :
    decodeTableWord 16 0b0011101010000000 = some (.txSetBtn .right 5 false) := by decide
theorem test_decode_txUpdate : decodeTableWord 16 0b0100000000000000 = some (.txUpdate 0) := by decide
theorem test_decode_rxPoll : decodeTableWord 16 0b1000000000000000 = some (.rxPoll 0 []) := by decide
theorem test_decode_rxConnected :
    decodeTableWord 16 0b1001000000000000 = some (.rxConnected 0 []) := by decide
theorem test_decode_rxGetJoy : decodeTableWord 16 0b1010010000000000 = some (.rxGetJoy .left .y) := by decide
theorem test_decode_rxGetTrig : decodeTableWord 16 0b1011100000000000 = some (.rxGetTrig .right) := by decide
theorem test_decode_rxGetBtn : decodeTableWord 16 0b1100001000000000 = some (.rxGetBtn .left 4) := by decide
theorem test_decode_rxGetClick :
    decodeTableWord 16 0b1101001000000000 = some (.rxGetClick .left 4) := by decide
theorem test_decode_reserved :
    decodeTableWord 16 0b0000000000000000 = some (.reservedOp0 0) ∧
    decodeTableWord 16 0b0101000000000001 = some (.reservedOp5 1) ∧
    decodeTableWord 16 0b0110100000000000 = some (.reservedOp6 0x800) ∧
    decodeTableWord 16 0b0111000000000000 = some (.reservedOp7 0) ∧
    decodeTableWord 16 0b1110000000000000 = some (.reservedOpE 0) ∧
    decodeTableWord 16 0b1111111111111111 = some (.reservedOpF 0xFFF) := by decide
theorem test_decode_reservedField :
    decodeCommand 0x4001 0 0 [] = .refused .reservedField ∧ decodeCommand 0x2400 0 0 [] = .refused .reservedField ∧
    decodeCommand 0xC040 0 0 [] = .refused .reservedField ∧ decodeCommand 0x3301 0 0 [] = .refused .reservedField := by
  decide
theorem test_decode_wireHeader :
    decodeWire .header [0b00100001, 0x11] = .instr (.wireHeader 0x21) [0x11] := by decide
theorem test_decode_frameGroupLJ :
    decodeWire .header [0b11000001, 0x11, 0x22] = .instr (.frameGroupLJ 3 0x11 0x22) [] := by decide
theorem test_decode_frameGroupRJ :
    decodeWire .header [0b00000010, 0x11, 0x22] = .instr (.frameGroupRJ 0 0x11 0x22) [] := by decide
theorem test_decode_frameGroups :
    decodeTableWord 8 0b00000001 = some (.frameGroupLJ 0 0 0) ∧
    decodeTableWord 8 0b00000010 = some (.frameGroupRJ 0 0 0) ∧
    decodeTableWord 8 0b00000100 = some (.frameGroupLT 0 0) ∧
    decodeTableWord 8 0b00001000 = some (.frameGroupRT 0 0) ∧
    decodeTableWord 8 0b00010000 = some (.frameGroupLB 0 0) ∧
    decodeTableWord 8 0b00100000 = some (.frameGroupRB 0 0) ∧
    decodeTableWord 8 0b00000000 = some (.wireHeader 0) := by decide
theorem test_decode_dataBytes :
    decodeWire .joy [0xBF] = .instr (.wireJoyByte 0xBF) [] ∧
    decodeWire .trig [0x40] = .instr (.wireTrigByte 0x40) [] ∧
    decodeWire .btn [0b00010000] = .instr (.wireBtnByte 0x10) [] := by decide
theorem test_decode_reset : decodeInput .header (.resetUnit .rx) = .instr (.reset .rx) [] := by decide

/-- Operations as 95_test_vectors.md writes them, and a pseudo-operation of R62. -/
theorem test_asm : asm (.rxPoll 5000 [0x15, 0x80, 0x80, 0x00, 0x1A]) = some "RX_POLL 5000, [15 80 80 00 1A]" ∧
    asm (.txSetJoy .left .y (-1 / 2)) = some "TX_SET_JOY L, Y, -1/2" ∧
    asm (.txSetBtn .left 4 true) = some "TX_SET_BTN L, JOY_BUTTON, 1" ∧ asm (.rxGetBtn .left 6) = none ∧
    expandPseudo (.setJoystick .right (1 / 2) 0) = [.txSetJoy .right .x (1 / 2), .txSetJoy .right .y 0] := by
  decide +kernel

/-! ### The codec: V-CODEC-1 to V-CODEC-9 -/

theorem test_quantJ : [-1, -1 / 2, -1 / 255, 0, 1 / 255, 1 / 2, 1].map quantJ
    = [0x00, 0x40, 0x7F, 0x80, 0x80, 0xBF, 0xFF] := by decide +kernel
theorem test_quantT : [0, 1 / 510, 3 / 510, 1 / 10, 1 / 4, 1 / 2, 1].map quantT
    = [0x00, 0x01, 0x02, 0x1A, 0x40, 0x80, 0xFF] := by decide +kernel
theorem test_decJ : [0x00, 0x7F, 0x80, 0xBF, 0xFF].map decJ = [-1, -1 / 255, 1 / 255, 127 / 255, 1] := by
  decide +kernel
theorem test_decT : [0x00, 0x01, 0x80, 0xFF].map decT = [0, 1 / 255, 128 / 255, 1] := by decide +kernel
theorem test_changed : changed (3 / 1000) 0 = false ∧ changed (31 / 10000) 0 = true ∧
    changed (-31 / 10000) 0 = true ∧ changed (1 / 2) (1 / 2) = false := by decide +kernel
theorem test_targets : headerTargets 0x15 = [.jlx, .jly, .tl, .bl] ∧ headerTargets 0x2A = [.jrx, .jry, .tr, .br] ∧
    headerTargets 0xC0 = [] ∧ (headerTargets 0x7F).map targetIndex = [0, 1, 2, 3, 4, 5, 6, 7] := by decide
theorem test_headerLen : [0x07, 0x0F, 0x1C, 0x35, 0xC0, 0xFF].map headerLen = [5, 6, 3, 5, 0, 8] := by decide
theorem test_el : el 1021 1000 = 21 ∧ el 5 0xFFFFFFFE = 7 ∧ el 0 1 = 0xFFFFFFFF ∧ el 7 7 = 0 := by decide
theorem test_setBit : setBit 0x00 4 true = 0x10 ∧ setBit 0x10 4 true = 0x10 ∧ setBit 0x11 0 false = 0x10 ∧
    setBit 0x3F 5 false = 0x1F := by decide
theorem test_rise : rise 0x00 0x10 = 0x10 ∧ rise 0x10 0x10 = 0x00 ∧ rise 0x10 0x01 = 0x01 ∧
    rise 0xFF 0x00 = 0x00 := by decide

/-! ### Single steps: TX -/

/-- V-TX-SET-1. -/
theorem test_txSetJoy_changed : (nextOf (exec (.txSetJoy .left .y (-1 / 2)) State.reset)).map
    (fun t => (t.tx.joy, t.tx.dirty)) = some (⟨⟨0, -1 / 2⟩, ⟨0, 0⟩⟩, 0x01) := by decide +kernel
/-- V-TX-SET-2. -/
theorem test_txSetJoy_epsilon : (nextOf (exec (.txSetJoy .left .x (3 / 1000)) State.reset)).map
    (fun t => (t.tx.joy, t.tx.dirty)) = some (⟨⟨0, 0⟩, ⟨0, 0⟩⟩, 0x00) := by decide +kernel
/-- V-TX-SET-3, its second call. -/
theorem test_txSetTrig_changed : (nextOf (exec (.txSetTrig .right (4 / 1000)) State.reset)).map
    (fun t => (t.tx.trig, t.tx.dirty)) = some (⟨0, 4 / 1000⟩, 0x08) := by decide +kernel
/-- V-TX-SET-6. -/
theorem test_txSetTrig_refused : (nextOf (exec (.txSetTrig .left (-1 / 10)) State.reset)).map
    (fun t => (t.tx, t.refusals)) = some (TxRegs.reset, [⟨.valueOutOfRange, 0x2000, some (-1 / 10)⟩]) := by
  decide +kernel
/-- V-TX-SET-5, its last call. -/
theorem test_txSetBtn_changed : (nextOf (exec (.txSetBtn .right 5 true) (txAt 0 0 0x10))).map
    (fun t => (t.tx.btn, t.tx.dirty)) = some (⟨0x00, 0x20⟩, 0x30) := by decide
/-- P5: refused, RESERVED_BUTTON, nothing written. -/
theorem test_txSetBtn_refused : (nextOf (exec (.txSetBtn .left 7 false) State.reset)).map
    (fun t => (t.tx, t.refusals)) = some (TxRegs.reset, [⟨.reservedButton, 0x3380, none⟩]) := by decide
/-- V-TX-UPD-9: the heartbeat wins over the partial send. -/
theorem test_txUpdate_heartbeat :
    (nextOf (exec (.txUpdate 1021)
      { txAt 1000 200 0x20 with tx := { (txAt 1000 200 0x20).tx with btn := ⟨0, 1⟩ } })).map
    (fun t => (t.out, t.tx.dirty, t.tx.lastSend, t.tx.lastFull))
      = some ([0x35, 0x80, 0x80, 0x00, 0x00, 0x01], 0x2A, 1021, 1021) := by decide +kernel
/-- V-TX-UPD-7: an analog change alone goes out above 50 ms. -/
theorem test_txUpdate_partial :
    (nextOf (exec (.txUpdate 1051) (txTrigLeft (1 / 4) (txAt 1000 1000 0x04)))).map
    (fun t => (t.out, t.tx.dirty, t.tx.lastSend, t.tx.lastFull))
      = some ([0x04, 0x40], 0x00, 1051, 1000) := by decide +kernel
/-- V-CODEC-7 with 0x12. -/
theorem test_send : (nextOf (exec (.send 7) { txAt 0 0 0x12 with
      tx := { (txAt 0 0 0x12).tx with joy := ⟨⟨0, 0⟩, ⟨1 / 2, 0⟩⟩, btn := ⟨0x10, 0⟩ } })).map
    (fun t => (t.out, t.tx.dirty, t.tx.lastSend)) = some ([0x12, 0xBF, 0x80, 0x10], 0x00, 7) := by
  decide +kernel
/-- The example of R85. -/
theorem test_fullSend : (nextOf (exec (.fullSend 1000) State.reset)).map
    (fun t => (t.out, t.tx.dirty, t.tx.lastSend, t.tx.lastFull))
      = some ([0x15, 0x80, 0x80, 0x00, 0x00], 0x2A, 1000, 1000) := by decide +kernel

/-! ### Single steps: RX -/

/-- The example of R93. -/
theorem test_rxPoll_frame : (nextOf (exec (.rxPoll 5000 [0x15, 0x80, 0x80, 0x00, 0x10]) State.reset)).map
    (fun t => (t.rx.joy.left, t.rx.btn, t.rx.click, t.rx.numBytes, t.rx.curByte, t.rx.lastReceive))
      = some (⟨0x80, 0x80⟩, ⟨0x10, 0⟩, ⟨0x10, 0⟩, 4, 4, 5000) := by decide
/-- P3, its second poll: the parser was waiting for JRY and the gap was 21 ms. -/
theorem test_rxPoll_resync :
    (nextOf (exec (.rxPoll 121 [0x04, 0x7F])
      { rxMid 0x03 3 with rx := { (rxMid 0x03 3).rx with lastReceive := 100 } })).map
    (fun t => (t.rx.joy.right.y, t.rx.trig.left, t.rx.numBytes, t.rx.curByte, t.rx.lastReceive))
      = some (0x00, 0x7F, 1, 1, 121) := by decide
/-- V-RX-CONN-2. -/
theorem test_rxConnected_false : (nextOf (exec (.rxConnected 1000 []) State.reset)).map (·.returned)
    = some [.flag false] := by decide
/-- V-RX-CONN-6. -/
theorem test_rxConnected_wrap : (nextOf (exec (.rxConnected 100 []) (rxAt 0xFFFFFF00))).map (·.returned)
    = some [.flag true] := by decide
/-- V-RX-ACC-2. -/
theorem test_rxGetJoy : (nextOf (exec (.rxGetJoy .right .y) rxRead)).map (·.returned)
    = some [.analog 1] := by decide +kernel
/-- V-RX-ACC-2. -/
theorem test_rxGetTrig : (nextOf (exec (.rxGetTrig .left) rxRead)).map (·.returned)
    = some [.analog (128 / 255)] := by decide +kernel
/-- V-RX-ACC-2. -/
theorem test_rxGetBtn : (nextOf (exec (.rxGetBtn .left 4) rxRead)).map (fun t => (t.returned, t.rx.click))
    = some ([.flag true], ⟨0x11, 0⟩) := by decide
/-- V-RX-ACC-2. -/
theorem test_rxGetBtn_released : (nextOf (exec (.rxGetBtn .left 0) rxRead)).map (·.returned)
    = some [.flag false] := by decide
/-- V-RX-ACC-2. -/
theorem test_rxGetClick : (nextOf (exec (.rxGetClick .left 0) rxRead)).map (fun t => (t.returned, t.rx.click))
    = some ([.flag true], ⟨0x10, 0⟩) := by decide
/-- 2.7: 0xD380 is refused with RESERVED_BUTTON. -/
theorem test_rxGetClick_refused : (nextOf (exec (.rxGetClick .left 7) rxRead)).map
    (fun t => (t.returned, t.rx.click, t.refusals))
      = some ([], ⟨0x11, 0⟩, [⟨.reservedButton, 0xD380, none⟩]) := by decide
/-- The example of R94. -/
theorem test_rxHeaderStep : (nextOf (exec (.rxHeaderStep 0x21) State.reset)).map
    (fun t => (t.rx.targets.toList.take 3, t.rx.numBytes, t.rx.curByte)) = some ([.jlx, .jly, .br], 3, 0) := by
  decide
/-- The example of R95. -/
theorem test_rxBodyStep : (nextOf (exec (.rxBodyStep 0x01) (rxMid 0x21 2))).map
    (fun t => (t.rx.btn.right, t.rx.click.right, t.rx.curByte)) = some (0x01, 0x01, 3) := by decide
/-- V-RX-POLL-5, read as wire elements. -/
theorem test_frameGroupLT : (nextOf (exec (.frameGroupLT 3 0x7F) State.reset)).map
    (fun t => (t.rx.trig, t.rx.numBytes, t.rx.curByte)) = some (⟨0x7F, 0⟩, 1, 1) := by decide
/-- V-RX-POLL-6, read as a wire element. -/
theorem test_frameGroupLB : (nextOf (exec (.frameGroupLB 0 0xC1) State.reset)).map
    (fun t => (t.rx.btn, t.rx.click)) = some (⟨0xC1, 0⟩, ⟨0xC1, 0⟩) := by decide
/-- The reserved opcode 0x5 with the word 0x5000 (2.7). -/
theorem test_reservedOp5 : (nextOf (exec (.reservedOp5 0) State.reset)).map (·.refusals)
    = some [⟨.reservedOpcode, 0x5000, none⟩] := by decide
/-- V-RST-2: a reset in the middle of a packet leaves ExpectingHeader. -/
theorem test_reset_rx : exec (.reset .rx) (rxMid 0x03 1) = .next State.reset := by rfl

/-! ### Single steps: the queue -/

/-- 2.7: 0x3301 is refused with RESERVED_FIELD, the lowest code. -/
theorem test_step_reservedField : (refusedOf (step (queued (.command 0x3301 0 0 [])))).map
    (fun t => (t.refusals, t.inputs)) = some ([⟨.reservedField, 0x3301, none⟩], []) := by decide
/-- The codes of R108. -/
theorem test_refusal_codes : (RefusalRecord.code ⟨.reservedOpcode, 0x0000, none⟩, RefusalRecord.code ⟨.reservedField,
    0x3301, none⟩, RefusalRecord.code ⟨.reservedButton, 0x3300, none⟩,
    RefusalRecord.code ⟨.valueOutOfRange, 0x1000, some 2⟩) = (1, 2, 3, 4) := by decide
/-- P5: the refused command writes nothing, the tick after it sends as in P1, and the run is refused. -/
theorem test_refused_run : (refusedOf (runAll [.txSetBtn .left 4 true, .txSetBtn .left 7 false, .txUpdate 1000]
    State.reset)).map (fun t => (t.out, t.tx.dirty, t.refusals))
      = some ([0x15, 0x80, 0x80, 0x00, 0x10], 0x2A, [⟨.reservedButton, 0x3380, none⟩]) := by decide +kernel
/-- P5: the step of a marked run has its effect, and is refused. -/
theorem test_step_in_a_refused_run : (refusedOf (step (markedRun (.command 0x4000 0 1000 [])))).map
    (fun t => (t.out, t.refusals)) = some ([0x15, 0x80, 0x80, 0x00, 0x00], [⟨.reservedButton, 0x3380, none⟩]) := by
  decide +kernel
/-- A word placed by the host is what the next step runs. -/
theorem test_withFetchWord : step (State.reset.withFetchWord 16 0x8000)
    = exec (.rxPoll 0 []) State.reset := by rfl
/-- A wire word placed by the host is read as a header, though RX was in the middle of a packet. -/
theorem test_withFetchWord_wire : (nextOf (step ((rxMid 0x03 1).withFetchWord 8 0x04))).map
    (fun t => (t.rx.trig.left, t.rx.numBytes, t.rx.curByte, t.inputs))
      = some (0x00, 1, 1, [.wire [0x00]]) := by decide

/-! ### Witnesses: for each statement with hypotheses, a state and operands that meet them -/

theorem test_witness_DecodeOfEncodeOfCommandWords :
    encodeWord (.txSetBtn .right 7 true) = some 0b0011101111000000 := by decide
theorem test_witness_EveryCommandWordHasOneMeaning :
    decodeCommand 0b1101001010000000 0 0 [] = .instr (.rxGetClick .left 5) [] := by decide
theorem test_witness_DecodeOfEncodeOfWireElements :
    encodeWire (.frameGroupRJ 3 0xFF 0) = some [0b11000010, 0xFF, 0] := by decide

theorem test_witness_CommandsOutsideTheMapAreRefused_opcode :
    (queued (.command 0xFFFF 0 0 [])).inputs = [.command 0xFFFF 0 0 []] ∧
    BitVec.extractLsb' 12 4 0xFFFF#16 ∈ [0x0#4, 0x5#4, 0x6#4, 0x7#4, 0xE#4, 0xF#4] := by decide
theorem test_witness_CommandsOutsideTheMapAreRefused_field :
    (queued (.command 0x4001 0 0 [])).inputs = [.command 0x4001 0 0 []] ∧
    ((0x4000#16, 0xFFFF#16) ∈ operationRows ∧ 0x4001#16 &&& 0xF000 = 0x4000 ∧ 0x4001#16 &&& 0xFFFF ≠ 0x4000) ∧
    ((0x1000#16, 0xF3FF#16) ∈ operationRows ∧ 0x1200#16 &&& 0xF000 = 0x1000 ∧ 0x1200#16 &&& 0xF3FF ≠ 0x1000) := by
  decide
theorem test_witness_CommandsOutsideTheMapAreRefused_button :
    (queued (.command 0x3300 0 0 [])).inputs = [.command 0x3300 0 0 []] ∧
    (0x3300#16 &&& 0xF43F = 0x3000 ∧ BitVec.extractLsb' 7 3 0x3300#16 = 6) ∧
    (0xC300#16 &&& 0xF47F = 0xC000 ∧ BitVec.extractLsb' 7 3 0xC300#16 = 6) ∧
    (0xD380#16 &&& 0xF47F = 0xD000 ∧ BitVec.extractLsb' 7 3 0xD380#16 = 7) := by decide
theorem test_witness_CommandsOutsideTheMapAreRefused_value :
    (queued (.command 0x1C00 2 0 [])).inputs = [.command 0x1C00 2 0 []] ∧
    (0x1C00#16 &&& 0xF3FF = 0x1000 ∧ (1 : Analog) < 1001 / 1000) ∧
    (0x1C00#16 &&& 0xF3FF = 0x1000 ∧ (-1001 / 1000 : Analog) < -1) ∧
    (0x2800#16 &&& 0xF7FF = 0x2000 ∧ (-1 / 10 : Analog) < 0) ∧
    (0x2800#16 &&& 0xF7FF = 0x2000 ∧ (1 : Analog) < 1001 / 1000) := by decide +kernel

theorem test_witness_StepRunsTheDecodedInput :
    (queued (.wire [0x01, 1, 2, 3])).inputs = [.wire [0x01, 1, 2, 3]] ∧
    decodeInput (rxRole (queued (.wire [0x01, 1, 2, 3])).rx) (.wire [0x01, 1, 2, 3])
      = .instr (.frameGroupLJ 0 1 2) [3] ∧
    decodeInput (rxRole (queued (.command 0x4000 0 801 [])).rx) (.command 0x4000 0 801 [])
      = .instr (.txUpdate 801) [] := by decide
theorem test_witness_NothingIssuedChangesNothing :
    State.reset.inputs = [] ∧ (queued (.wire [])).inputs = [.wire []] := by decide

theorem test_witness_TxSetJoyStoresAChangedAxis :
    ((-1 : Analog) ≤ 1 ∧ (1 : Analog) ≤ 1 ∧ (3 / 1000 : Analog) < |1 - joyGet State.reset.tx.joy .left .x|) ∧
    ((-1 : Analog) ≤ -1 ∧ (-1 : Analog) ≤ 1 ∧ (3 / 1000 : Analog) < |-1 - joyGet State.reset.tx.joy .left .x|) ∧
    |3 / 1000 - joyGet State.reset.tx.joy .left .x| ≤ (3 / 1000 : Analog) ∧
    (Side.left, Axis.y) ≠ (Side.left, Axis.x) := by decide +kernel
theorem test_witness_TxSetTrigStoresAChangedValue :
    ((0 : Analog) ≤ 1 ∧ (1 : Analog) ≤ 1 ∧ (3 / 1000 : Analog) < |1 - State.reset.tx.trig.get .right|) ∧
    ((0 : Analog) ≤ 3 / 1000 ∧ (3 / 1000 : Analog) ≤ 1 ∧
      |3 / 1000 - State.reset.tx.trig.get .right| ≤ (3 / 1000 : Analog)) := by decide +kernel
theorem test_witness_TxSetBtnSetsOneBit : (5 : ButtonId).toNat ≤ 5 ∧ (0 : ButtonId).toNat ≤ 5 := by decide

theorem test_witness_TxUpdateTakesTheFirstStepThatApplies :
    ((20 : Time) - State.reset.tx.lastSend).toNat ≤ 20 ∧
    (20 < ((1021 : Time) - (txAt 1000 220 0).tx.lastSend).toNat ∧
      800 < ((1021 : Time) - (txAt 1000 220 0).tx.lastFull).toNat) ∧
    (20 < ((1021 : Time) - (txAt 1000 221 0x20).tx.lastSend).toNat ∧
      ((1021 : Time) - (txAt 1000 221 0x20).tx.lastFull).toNat ≤ 800 ∧
      (txAt 1000 221 0x20).tx.dirty &&& 0x30 ≠ 0) ∧
    ((txAt 1000 1000 0x04).tx.dirty ≠ 0 ∧ 50 < ((1051 : Time) - (txAt 1000 1000 0x04).tx.lastSend).toNat) ∧
    (20 < ((1050 : Time) - (txAt 1000 1000 0x04).tx.lastSend).toNat ∧
      ((1050 : Time) - (txAt 1000 1000 0x04).tx.lastFull).toNat ≤ 800 ∧
      ¬ ((txAt 1000 1000 0x04).tx.dirty &&& 0x30 ≠ 0 ∨
        ((txAt 1000 1000 0x04).tx.dirty ≠ 0 ∧
          50 < ((1050 : Time) - (txAt 1000 1000 0x04).tx.lastSend).toNat))) := by decide
theorem test_witness_SettersNeverClearADirtyBit :
    isTxOp (.txSetJoy .left .x 2) = true ∧ (∀ now, Instr.txSetJoy .left .x 2 ≠ .txUpdate now) ∧
    ∃ t, exec (.txSetJoy .left .x 2) (txAt 0 0 0x3F) = .next t :=
  ⟨by decide, fun _ h => (nomatch h), _, rfl⟩
theorem test_witness_TickEmitsAtMostOneFrame :
    (∃ t, exec (.txUpdate 801) State.reset = .next t ∧ t.out ≠ State.reset.out) ∧
    exec (.txUpdate 800) State.reset = .next State.reset :=
  ⟨⟨_, rfl, by decide +kernel⟩, by rfl⟩
theorem test_witness_DeferredHalfGoesOutAtTheNextOpenTick :
    (∃ t, exec (.fullSend 1000) State.reset = .next t) ∧
    20 < ((1021 : Time) - 1000).toNat ∧ ((1800 : Time) - 1000).toNat ≤ 800 ∧ 800 < ((1801 : Time) - 1000).toNat :=
  ⟨⟨_, rfl⟩, by decide⟩
theorem test_witness_NoSecondFrameWithinTheFloor :
    ∃ s1 s2, exec (.txUpdate 1000) State.reset = .next s1 ∧ s1.out ≠ State.reset.out ∧
      (∀ i ∈ [Instr.txSetBtn .left 4 true, .txUpdate 1020], isCommand i = true ∧
        ∀ now, i = .txUpdate now → (now - (1000 : Time)).toNat ≤ 20) ∧
      runAll [.txSetBtn .left 4 true, .txUpdate 1020] s1 = .next s2 := by
  refine ⟨_, _, rfl, by decide +kernel, ?_, rfl⟩
  intro i hi
  simp only [List.mem_cons, List.not_mem_nil, or_false] at hi
  rcases hi with rfl | rfl
  · exact ⟨rfl, fun _ h => (nomatch h)⟩
  · exact ⟨rfl, fun _ h => by cases h; decide⟩
theorem test_witness_HeartbeatSpacing :
    ∃ s1, (∀ i ∈ [Instr.txUpdate 800], isCommand i = true ∧
        ∀ n, i = .txUpdate n → (n - State.reset.tx.lastFull).toNat ≤ 800) ∧
      runAll [.txUpdate 800] State.reset = .next s1 ∧
      800 < ((801 : Time) - s1.tx.lastFull).toNat ∧ 20 < ((801 : Time) - s1.tx.lastSend).toNat := by
  refine ⟨State.reset, ?_, rfl, by decide⟩
  intro i hi
  simp only [List.mem_cons, List.not_mem_nil, or_false] at hi
  subst hi
  exact ⟨rfl, fun _ h => by cases h; decide⟩
/-- V-SRC-5 with a blocked tick and another button of the side between. -/
theorem test_witness_ChangedButtonGoesOutAtTheNextOpenTick :
    ∃ s1 s2, exec (.txSetBtn .right 2 true) (txAt 1000 1000 0) = .next s1 ∧
      s1.tx.btn.get .right ≠ (txAt 1000 1000 0).tx.btn.get .right ∧
      (∀ i ∈ [Instr.txUpdate 1020, .txSetBtn .right 0 true], isCommand i = true ∧
        ∀ n, i = .txUpdate n → (n - (txAt 1000 1000 0).tx.lastSend).toNat ≤ 20) ∧
      runAll [.txUpdate 1020, .txSetBtn .right 0 true] s1 = .next s2 ∧
      20 < ((1021 : Time) - (txAt 1000 1000 0).tx.lastSend).toNat := by
  refine ⟨_, _, rfl, by decide, ?_, rfl, by decide⟩
  intro i hi
  simp only [List.mem_cons, List.not_mem_nil, or_false] at hi
  rcases hi with rfl | rfl
  · exact ⟨rfl, fun _ h => by cases h; decide⟩
  · exact ⟨rfl, fun _ h => (nomatch h)⟩
theorem test_witness_DirtyIsWhatChangedAndWhatIsDeferred :
    State.reset.tx.dirty = 0x00 ∧
    (∀ i ∈ [Instr.txSetJoy .right .x (1 / 2), .txUpdate 801, .txSetBtn .left 0 true], isTxOp i = true) ∧
    (nextOf (runAll [.txSetJoy .right .x (1 / 2), .txUpdate 801, .txSetBtn .left 0 true] State.reset)).map
      (·.tx.dirty) = some 0x3A := by decide +kernel
theorem test_witness_StoredAnalogIsWithinEpsilonOfTheLastGiven :
    (∀ i ∈ [Instr.txSetJoy .left .y 1, .txUpdate 801], isCommand i = true) ∧
    (∀ v', Instr.txSetJoy .left .x v' ∉ [Instr.txSetJoy .left .y 1, .txUpdate 801]) ∧
    (∀ v', Instr.txSetTrig .left v' ∉ [Instr.txSetJoy .left .y 1, .txUpdate 801]) ∧
    (∃ s1 s2, exec (.txSetJoy .left .x (3 / 1000)) State.reset = .next s1 ∧
      runAll [.txSetJoy .left .y 1, .txUpdate 801] s1 = .next s2) ∧
    (∃ s1 s2, exec (.txSetTrig .left 1) State.reset = .next s1 ∧
      runAll [.txSetJoy .left .y 1, .txUpdate 801] s1 = .next s2) := by
  refine ⟨by decide, ?_, ?_, ⟨_, _, rfl, runAll_eq_next.2 ⟨rfl, by decide +kernel⟩⟩,
    ⟨_, _, rfl, runAll_eq_next.2 ⟨rfl, by decide +kernel⟩⟩⟩ <;> intro v h <;> simp at h

theorem test_witness_QuantJRoundsToNearestTiesUp :
    ((-1 : Analog) ≤ -1 ∧ (-1 : Analog) ≤ 1) ∧ ((-1 : Analog) ≤ 1 ∧ (1 : Analog) ≤ 1) ∧
    (254 < 255 ∧ (quantJ ((2 * 254 + 1) / 255 - 1)).toNat = 255) ∧
    (quantJ ((2 * 0 + 1) / 255 - 1)).toNat = 1 := by decide +kernel
theorem test_witness_QuantTRoundsToNearestTiesUp :
    ((0 : Analog) ≤ 0 ∧ (0 : Analog) ≤ 1) ∧ ((0 : Analog) ≤ 1 ∧ (1 : Analog) ≤ 1) ∧
    (254 < 255 ∧ (quantT ((2 * 254 + 1) / 510)).toNat = 255) ∧ (quantT (1 / 510)).toNat = 1 := by decide +kernel
theorem test_witness_DecJUndoesQuantJWithinTolerance :
    (-1 : Analog) ≤ 0 ∧ (0 : Analog) ≤ 1 ∧ |decJ (quantJ 0) - 0| = 1 / 255 := by decide +kernel
theorem test_witness_DecTUndoesQuantTWithinTolerance :
    (0 : Analog) ≤ 1 / 2 ∧ (1 / 2 : Analog) ≤ 1 ∧ |decT (quantT (1 / 2)) - 1 / 2| = 1 / 510 := by decide +kernel
theorem test_witness_ElapsedTimeIsWraparoundSafe :
    (0 : Nat) < 4294967295 ∧ 4294967295 < 2 ^ 32 ∧ (0 : Nat) < 1 ∧ 1 < 2 ^ 32 := by decide

theorem test_witness_RxPollParsesEveryByte :
    ([] : List Byte) = [] ∧ [(0x00 : Byte)] ≠ [] ∧ 2 < ((103 : Time) - (rxAt 100).rx.lastReceive).toNat ∧
    ¬ 2 < ((102 : Time) - (rxAt 100).rx.lastReceive).toNat := by decide
theorem test_witness_BodyStepRoutesTheByte :
    (rxMid 0x3F 7).rx.curByte.toNat < 8 ∧ (rxMid 0x3F 7).rx.targets[7] = .br ∧
    (rxMid 0x3F 0).rx.curByte.toNat < 8 ∧ (rxMid 0x3F 0).rx.targets[0] = .jlx := by decide
theorem test_witness_ButtonBytesAddTheirRisingEdges :
    (rxMid 0x30 0).rx.curByte.toNat < 8 ∧ (rxMid 0x30 0).rx.targets[0] = .bl ∧
    (rxMid 0x30 1).rx.curByte.toNat < 8 ∧ (rxMid 0x30 1).rx.targets[1] = .br := by decide
theorem test_witness_RxConnectedPollsThenCompares :
    [(0x00 : Byte)] ≠ [] ∧ ([] : List Byte) = [] ∧
    ¬ 1000 ≤ ((999 : Time) - State.reset.rx.lastReceive).toNat ∧
    1000 ≤ ((1000 : Time) - State.reset.rx.lastReceive).toNat := by decide
theorem test_witness_RxGetBtnReturnsTheLevel : (5 : ButtonId).toNat ≤ 5 := by decide
theorem test_witness_RxGetClickReadsAndClearsOneBit :
    (5 : ButtonId).toNat ≤ 5 ∧ (0 : Nat) ≠ (5 : ButtonId).toNat ∧ Side.left ≠ Side.right := by decide
/-- A read, a reset, and V-RX-CLICK-1 from reset with a connection test that polls and reads of other
bits between: the edge is there. -/
theorem test_witness_ClickReadReportsARisingEdgeSinceTheLastRead :
    (4 : ButtonId).toNat ≤ 5 ∧
    (∃ s, exec (.rxGetClick .left 4) rxRead = .next s) ∧ (∃ s, exec (.reset .rx) rxRead = .next s) ∧
    (State.reset.rx.click.get .left).getLsbD (4 : ButtonId).toNat = false ∧
    (∀ i ∈ [Instr.rxPoll 10 [0x10, 0x00], .rxConnected 40 [0x10, 0x10], .rxGetClick .left 0, .rxGetClick .right 4],
      isCommand i = true ∧ i ≠ .rxGetClick .left 4) ∧
    ∃ s2, runAll [.rxPoll 10 [0x10, 0x00], .rxConnected 40 [0x10, 0x10], .rxGetClick .left 0, .rxGetClick .right 4]
        State.reset = .next s2 ∧
      risesIn 4 (State.reset.rx.btn.get .left) (storedAlong .left
        [.rxPoll 10 [0x10, 0x00], .rxConnected 40 [0x10, 0x10], .rxGetClick .left 0, .rxGetClick .right 4]
        State.reset) = true :=
  ⟨by decide, ⟨_, rfl⟩, ⟨_, rfl⟩, by decide, by decide, _, rfl, by decide⟩
theorem test_witness_ResyncForgetsThePacketInProgress :
    2 < ((103 : Time) - (rxAt 100).rx.lastReceive).toNat := by decide
theorem test_witness_PacketSplitOverPollsParsesAsOne :
    [(0x15 : Byte), 0x80] ≠ [] ∧ [(0x80 : Byte), 0x00, 0x10] ≠ [] ∧ ((202 : Time) - 200).toNat ≤ 2 := by decide

theorem test_witness_WireElementIsAPollAtTheLastReceive :
    encodeWire (.wireHeader 0x21) = some [0x21] ∧ encodeWire (.wireJoyByte 0xFF) = some [0xFF] ∧
    encodeWire (.frameGroupRB 0 0x3F) = some [0x20, 0x3F] := by decide
theorem test_witness_GroupFramesFillTheirRegisters : State.reset.rx.curByte = State.reset.rx.numBytes := by decide
theorem test_witness_WireByteIsTakenByTheParserState :
    (Instr.wireTrigByte 0x7F = .wireTrigByte 0x7F) ∧ (rxMid 0x04 1).rx.curByte = (rxMid 0x04 1).rx.numBytes ∧
    (rxMid 0x04 0).rx.curByte ≠ (rxMid 0x04 0).rx.numBytes := by decide
theorem test_witness_HeaderWithoutGroupsIsAWholePacket :
    (rxMid 0x3F 8).rx.curByte = (rxMid 0x3F 8).rx.numBytes ∧ 0xC0#8 &&& 0x3F = 0 := by decide
theorem test_witness_ReservedOpcodesOnlyMarkTheRun :
    (Instr.reservedOpF 0xFFF, 0xF#4) ∈ [(Instr.reservedOp0 0xFFF, 0x0#4), (.reservedOp5 0xFFF, 0x5#4),
      (.reservedOp6 0xFFF, 0x6#4), (.reservedOp7 0xFFF, 0x7#4), (.reservedOpE 0xFFF, 0xE#4),
      (.reservedOpF 0xFFF, 0xF#4)] := by decide

theorem test_witness_EveryStepEndsWithoutAFault :
    (queued (.wire [0x01, 0x02])).refusals = [] ∧ (queued (.wire [0x01, 0x02])).inputs = [.wire [0x01, 0x02]] ∧
    decodeInput (rxRole (queued (.wire [0x01, 0x02])).rx) (.wire [0x01, 0x02])
      = .instr (.wireHeader 0x01) [0x02] ∧ (Instr.wireHeader 0x01).wellFormed = true := by decide
/-- A step that is not refused, one that is, and one in a marked run. -/
theorem test_witness_RefusalMarkIsNeverCleared :
    (∃ t, step (queued (.resetUnit .tx)) = .next t) ∧
    (∃ t, step (queued (.command 0x0000 0 0 [])) = .refused (.runRefused t)) ∧
    (∃ t, step (markedRun (.resetUnit .tx)) = .refused (.runRefused t) ∧ t.inputs = []) ∧
    (markedRun (.resetUnit .tx)).refusals ≠ [] :=
  ⟨⟨_, rfl⟩, ⟨_, rfl⟩, ⟨_, rfl, rfl⟩, by decide⟩
theorem test_witness_RefusedExactlyWhenIllFormed :
    (∃ t, exec (.rxGetBtn .left 5) State.reset = .next t) ∧ (Instr.rxGetBtn .left 5).wellFormed = true ∧
    (∃ t, exec (.rxGetBtn .left 6) State.reset = .next t) ∧ (Instr.rxGetBtn .left 6).wellFormed = false :=
  ⟨⟨_, rfl⟩, by decide, ⟨_, rfl⟩, by decide⟩
theorem test_witness_RefusedExactlyWhenIllFormed_run :
    (State.reset.refusals = [] ∧ ∀ i ∈ [Instr.rxGetBtn .left 5, .txUpdate 801], i.wellFormed = true) ∧
    (∃ i ∈ [Instr.rxGetBtn .left 6, .txUpdate 801], i.wellFormed = false) := by decide
theorem test_witness_UnitsShareNoState :
    (∃ t, exec (.txUpdate 801) State.reset = .next t) ∧ isTxOp (.txUpdate 801) = true ∧
    (∃ t, exec (.rxConnected 5 [1]) State.reset = .next t) ∧ isRxOp (.rxConnected 5 [1]) = true :=
  ⟨⟨_, rfl⟩, by decide, ⟨_, rfl⟩, by decide⟩
theorem test_witness_UnitsInterleaveFreely :
    isTxOp (.txSetBtn .left 7 true) = true ∧ isRxOp (.rxGetClick .left 6) = true ∧
    ∃ s1 s2 t1 t2, exec (.txSetBtn .left 7 true) State.reset = .next s1 ∧
      exec (.rxGetClick .left 6) s1 = .next s2 ∧ exec (.rxGetClick .left 6) State.reset = .next t1 ∧
      exec (.txSetBtn .left 7 true) t1 = .next t2 :=
  ⟨by decide, by decide, _, _, _, _, rfl, rfl, rfl, rfl⟩
theorem test_witness_AccessorsNeverParse :
    isRxOp (.rxGetClick .left 0) = true ∧ (∀ now bytes, Instr.rxGetClick .left 0 ≠ .rxPoll now bytes) ∧
    (∀ now bytes, Instr.rxGetClick .left 0 ≠ .rxConnected now bytes) ∧
    (∃ t, exec (.rxGetClick .left 0) rxRead = .next t) ∧
    isRxOp (.rxGetTrig .left) = true ∧ (∀ side b, Instr.rxGetTrig .left ≠ .rxGetClick side b) :=
  ⟨by decide, fun _ _ h => (nomatch h), fun _ _ h => (nomatch h), ⟨_, rfl⟩, by decide, fun _ _ h => (nomatch h)⟩

/-- A state in the middle of a packet, with a byte of the next one queued, meets the register invariant. -/
theorem test_witness_StepKeepsTheRegisterInvariant :
    ∃ t, State.regsOk { rxMid 0x03 3 with inputs := [.wire [0x40]] } ∧
      step { rxMid 0x03 3 with inputs := [.wire [0x40]] } = .next t := by
  refine ⟨_, ⟨?_, ⟨?_, by decide⟩, by decide, by decide, 0x03, by decide⟩, rfl⟩
  · intro s
    cases s <;> refine ⟨fun a => ?_, ?_⟩ <;> try cases a
    all_goals (constructor <;> decide +kernel)
  · intro s
    cases s <;> decide
/-- A tick that emits, from reset. -/
theorem test_witness_StepKeepsTheOutputWholeFrames :
    ∃ t, State.regsOk (queued (.command 0x4000 0 801 [])) ∧ WholeFrames (queued (.command 0x4000 0 801 [])).out ∧
      step (queued (.command 0x4000 0 801 [])) = .next t ∧ t.out ≠ [] := by
  refine ⟨_, ⟨?_, ⟨?_, by decide⟩, by decide, by decide, 0, by decide⟩, .nil, rfl, by decide +kernel⟩
  · intro s
    cases s <;> refine ⟨fun a => ?_, ?_⟩ <;> try cases a
    all_goals (constructor <;> decide +kernel)
  · intro s
    cases s <;> decide
theorem test_witness_ReceivedFrameFillsExactlyItsTargets :
    State.reset.rx.curByte = State.reset.rx.numBytes ∧
    ((rxMid 0x03 3).rx.curByte ≠ (rxMid 0x03 3).rx.numBytes ∧
      2 < ((3 : Time) - (rxMid 0x03 3).rx.lastReceive).toNat) := by decide
theorem test_witness_SentFieldsReadBackWithinTolerance :
    ∃ s1, State.reset.tx.inDomain ∧ exec (.txUpdate 801) State.reset = .next s1 ∧
      s1.out = State.reset.out ++ [0x15, 0x80, 0x80, 0x00, 0x00] ∧
      2 < ((801 : Time) - State.reset.rx.lastReceive).toNat := by
  refine ⟨_, ?_, rfl, by decide +kernel, by decide⟩
  intro s
  cases s <;> refine ⟨fun a => ?_, ?_⟩ <;> try cases a
  all_goals (constructor <;> decide +kernel)
/-- P1's heartbeat and deferred half, each received when it was sent. -/
theorem test_witness_HeartbeatRefreshesEveryField :
    ∃ s1 s2, exec (.fullSend 1000) State.reset = .next s1 ∧
      s1.out = State.reset.out ++ [0x15, 0x80, 0x80, 0x00, 0x00] ∧
      20 < ((1021 : Time) - 1000).toNat ∧ ((1021 : Time) - 1000).toNat ≤ 800 ∧
      exec (.txUpdate 1021) s1 = .next s2 ∧ s2.out = s1.out ++ [0x2A, 0x80, 0x80, 0x00, 0x00] ∧
      2 < ((1000 : Time) - State.reset.rx.lastReceive).toNat ∧ 2 < ((1021 : Time) - 1000).toNat :=
  ⟨_, _, rfl, by decide +kernel, by decide, by decide, rfl, by decide +kernel, by decide, by decide⟩

end Sys2Proof.Machine.Tests
end

section
/-! PROOFS. What every kind of instruction does to the two units' registers, and from it 10_state.md's statements:
TX and RX share no state, the state after reset meets the register invariant, and every step keeps it. -/

namespace Sys2Proof.Machine

/-! ### What an instruction with a guard can do -/

/-- TX_SET_JOY refuses, stores a changed axis, or does nothing (R78). -/
theorem exec_txSetJoy_cases {side : Side} {a : Axis} {v : Analog} {s t : State}
    (h : exec (.txSetJoy side a v) s = .next t) :
    ((v < -1 ∨ 1 < v) ∧ t = refuse .valueOutOfRange (wordTxSetJoy side a) (some v) s)
      ∨ ((-1 ≤ v ∧ v ≤ 1) ∧ 3 / 1000 < |v - joyGet s.tx.joy side a| ∧
          t = { s with tx := markDirty (joyBit side) { s.tx with joy := joySet s.tx.joy side a v } })
      ∨ ((-1 ≤ v ∧ v ≤ 1) ∧ |v - joyGet s.tx.joy side a| ≤ 3 / 1000 ∧ t = s) := by
  simp only [exec, execTxSetJoy, Host.Outcome.next.injEq] at h
  split at h
  next hv => exact .inl ⟨(outsideJoyDomain_eq_true v).1 hv, h.symm⟩
  next hv =>
    have hin := (outsideJoyDomain_eq_false v).1 (Bool.not_eq_true _ ▸ hv)
    split at h
    next hc => exact .inr (.inl ⟨hin, (changed_eq_true _ _).1 hc, h.symm⟩)
    next hc => exact .inr (.inr ⟨hin, (changed_eq_false _ _).1 (Bool.not_eq_true _ ▸ hc), h.symm⟩)

/-- TX_SET_TRIG refuses, stores a changed value, or does nothing (R79). -/
theorem exec_txSetTrig_cases {side : Side} {v : Analog} {s t : State}
    (h : exec (.txSetTrig side v) s = .next t) :
    ((v < 0 ∨ 1 < v) ∧ t = refuse .valueOutOfRange (wordTxSetTrig side) (some v) s)
      ∨ ((0 ≤ v ∧ v ≤ 1) ∧ 3 / 1000 < |v - s.tx.trig.get side| ∧
          t = { s with tx := markDirty (trigBit side) { s.tx with trig := s.tx.trig.set side v } })
      ∨ ((0 ≤ v ∧ v ≤ 1) ∧ |v - s.tx.trig.get side| ≤ 3 / 1000 ∧ t = s) := by
  simp only [exec, execTxSetTrig, Host.Outcome.next.injEq] at h
  split at h
  next hv => exact .inl ⟨(outsideTrigDomain_eq_true v).1 hv, h.symm⟩
  next hv =>
    have hin := (outsideTrigDomain_eq_false v).1 (Bool.not_eq_true _ ▸ hv)
    split at h
    next hc => exact .inr (.inl ⟨hin, (changed_eq_true _ _).1 hc, h.symm⟩)
    next hc => exact .inr (.inr ⟨hin, (changed_eq_false _ _).1 (Bool.not_eq_true _ ▸ hc), h.symm⟩)

/-- TX_SET_BTN refuses, stores a changed button byte, or does nothing (R80). -/
theorem exec_txSetBtn_cases {side : Side} {b : ButtonId} {p : Bool} {s t : State}
    (h : exec (.txSetBtn side b p) s = .next t) :
    (5 < b.toNat ∧ t = refuse .reservedButton (wordTxSetBtn side b p) none s)
      ∨ (b.toNat ≤ 5 ∧ setBit (s.tx.btn.get side) b p ≠ s.tx.btn.get side ∧
          t = { s with
            tx := markDirty (btnBit side) { s.tx with btn := s.tx.btn.set side (setBit (s.tx.btn.get side) b p) } })
      ∨ (b.toNat ≤ 5 ∧ setBit (s.tx.btn.get side) b p = s.tx.btn.get side ∧ t = s) := by
  simp only [exec, execTxSetBtn, Host.Outcome.next.injEq] at h
  split at h
  next hb => exact .inl ⟨(buttonReserved_eq_true b).1 hb, h.symm⟩
  next hb =>
    have hle := (buttonReserved_eq_false b).1 (Bool.not_eq_true _ ▸ hb)
    split at h
    next hne => exact .inr (.inl ⟨hle, hne, h.symm⟩)
    next heq => exact .inr (.inr ⟨hle, not_not.1 heq, h.symm⟩)

/-- RX_GET_BTN refuses or returns the bit (R102). -/
theorem exec_rxGetBtn_cases {side : Side} {b : ButtonId} {s t : State} (h : exec (.rxGetBtn side b) s = .next t) :
    (5 < b.toNat ∧ t = refuse .reservedButton (wordRxGetBtn side b) none s)
      ∨ (b.toNat ≤ 5 ∧ t = returnValue (.flag ((s.rx.btn.get side).getLsbD b.toNat)) s) := by
  simp only [exec, execRxGetBtn, Host.Outcome.next.injEq] at h
  split at h
  next hb => exact .inl ⟨(buttonReserved_eq_true b).1 hb, h.symm⟩
  next hb => exact .inr ⟨(buttonReserved_eq_false b).1 (Bool.not_eq_true _ ▸ hb), h.symm⟩

/-- RX_GET_CLICK refuses, or returns the bit and clears it (R103). -/
theorem exec_rxGetClick_cases {side : Side} {b : ButtonId} {s t : State}
    (h : exec (.rxGetClick side b) s = .next t) :
    (5 < b.toNat ∧ t = refuse .reservedButton (wordRxGetClick side b) none s)
      ∨ (b.toNat ≤ 5 ∧ t = returnValue (.flag ((s.rx.click.get side).getLsbD b.toNat))
          { s with rx := { s.rx with click := s.rx.click.set side (clearBit (s.rx.click.get side) b) } }) := by
  simp only [exec, execRxGetClick, Host.Outcome.next.injEq] at h
  split at h
  next hb => exact .inl ⟨(buttonReserved_eq_true b).1 hb, h.symm⟩
  next hb => exact .inr ⟨(buttonReserved_eq_false b).1 (Bool.not_eq_true _ ▸ hb), h.symm⟩

/-! ### What a kind of instruction does -/

/-- A wire instruction hands RX its bytes and does nothing else (R93). -/
theorem exec_of_encodeWire {i : Instr} {bytes : List Byte} (hi : encodeWire i = some bytes) (s : State) :
    exec i s = .next (consumeOp bytes s) := by
  cases i <;> cases hi <;> rfl

/-- A reserved opcode records one refusal and does nothing else (R60, R108). -/
theorem exec_of_isReservedOp {i : Instr} (hi : isReservedOp i = true) (s : State) :
    ∃ w, exec i s = .next (refuse .reservedOpcode w none s) := by
  cases i <;> cases hi <;> exact ⟨_, rfl⟩

/-- The tick writes nothing of RX, whichever step of R82 applies. -/
theorem updateOp_frame (now : Time) (s : State) :
    (updateOp now s).rx = s.rx ∧ (updateOp now s).returned = s.returned := by
  obtain h | ⟨-, -, h⟩ | ⟨-, -, -, h⟩ := updateOp_cases now s <;> rw [h]
  · exact ⟨rfl, rfl⟩
  · rw [fullSendOp_eq]; exact ⟨rfl, rfl⟩
  · rw [sendOp_eq]; exact ⟨rfl, rfl⟩

/-- A host operation of TX writes nothing of RX, refused or not (R13, R75). -/
theorem exec_txOp_frame {i : Instr} {s t : State} (hi : isTxOp i = true) (h : exec i s = .next t) :
    t.rx = s.rx ∧ t.returned = s.returned := by
  cases i with
  | txSetJoy side a v =>
    obtain ⟨-, rfl⟩ | ⟨-, -, rfl⟩ | ⟨-, -, rfl⟩ := exec_txSetJoy_cases h <;> exact ⟨rfl, rfl⟩
  | txSetTrig side v =>
    obtain ⟨-, rfl⟩ | ⟨-, -, rfl⟩ | ⟨-, -, rfl⟩ := exec_txSetTrig_cases h <;> exact ⟨rfl, rfl⟩
  | txSetBtn side b p =>
    obtain ⟨-, rfl⟩ | ⟨-, -, rfl⟩ | ⟨-, -, rfl⟩ := exec_txSetBtn_cases h <;> exact ⟨rfl, rfl⟩
  | txUpdate now => cases h; exact updateOp_frame now s
  | _ => cases hi

/-- A host operation of RX writes nothing of TX and emits nothing, refused or not (R13). -/
theorem exec_rxOp_frame {i : Instr} {s t : State} (hi : isRxOp i = true) (h : exec i s = .next t) :
    t.tx = s.tx ∧ t.out = s.out := by
  cases i with
  | rxPoll now bytes => cases h; exact ⟨rfl, rfl⟩
  | rxConnected now bytes => cases h; exact ⟨rfl, rfl⟩
  | rxGetJoy side a => cases h; exact ⟨rfl, rfl⟩
  | rxGetTrig side => cases h; exact ⟨rfl, rfl⟩
  | rxGetBtn side b => obtain ⟨-, rfl⟩ | ⟨-, rfl⟩ := exec_rxGetBtn_cases h <;> exact ⟨rfl, rfl⟩
  | rxGetClick side b => obtain ⟨-, rfl⟩ | ⟨-, rfl⟩ := exec_rxGetClick_cases h <;> exact ⟨rfl, rfl⟩
  | _ => cases hi

/-- A host operation of RX polls, or leaves every RX register but the click masks (R91, R93, R99). -/
theorem exec_rxOp_rx_cases {i : Instr} {s t : State} (hi : isRxOp i = true) (h : exec i s = .next t) :
    (∃ now bytes, t.rx = pollRegs now bytes s.rx) ∨ t.rx = { s.rx with click := t.rx.click } := by
  cases i with
  | rxPoll now bytes => cases h; exact .inl ⟨now, bytes, rfl⟩
  | rxConnected now bytes => cases h; exact .inl ⟨now, bytes, rfl⟩
  | rxGetJoy side a => cases h; exact .inr rfl
  | rxGetTrig side => cases h; exact .inr rfl
  | rxGetBtn side b => obtain ⟨-, rfl⟩ | ⟨-, rfl⟩ := exec_rxGetBtn_cases h <;> exact .inr rfl
  | rxGetClick side b => obtain ⟨-, rfl⟩ | ⟨-, rfl⟩ := exec_rxGetClick_cases h <;> exact .inr rfl
  | _ => cases hi

/-- Settles O52: the frame of each unit's host operations. -/
theorem unitsShareNoState : Obligations.UnitsShareNoState :=
  fun _ _ _ h => ⟨fun hi => exec_txOp_frame hi h, fun hi => exec_rxOp_frame hi h⟩

/-! ### What a step runs -/

/-- The instructions that an input can decode to: commands, wire elements and resets, but none of the internal SEND,
FULLSEND, HeaderStep and BodyStep (R58, R68, R121). BodyStep alone would take `curByte` past `numBytes`. -/
inductive InputInstr : Instr → Prop where
  | txOp {i : Instr} (h : isTxOp i = true) : InputInstr i
  | rxOp {i : Instr} (h : isRxOp i = true) : InputInstr i
  | reservedOp {i : Instr} (h : isReservedOp i = true) : InputInstr i
  | wire {i : Instr} {bytes : List Byte} (h : encodeWire i = some bytes) : InputInstr i
  | reset (u : UnitId) : InputInstr (.reset u)

theorem withZeros_eq_instr {zeros w : CmdWord} {i j : Instr} {rest : List Byte}
    (h : withZeros zeros w i = .instr j rest) : j = i := by
  unfold withZeros at h
  split at h <;> cases h
  rfl

/-- A command word decodes to an operation of TX, one of RX, or a reserved opcode (R58). -/
theorem decodeCommand_inputInstr {w : CmdWord} {v : Analog} {now : Time} {bytes rest : List Byte} {i : Instr}
    (h : decodeCommand w v now bytes = .instr i rest) : InputInstr i := by
  unfold decodeCommand at h
  split at h
  case h_1 | h_6 | h_7 | h_8 | h_15 | h_16 => cases h; exact .reservedOp rfl
  case h_2 | h_3 | h_4 | h_5 => cases withZeros_eq_instr h; exact .txOp rfl
  all_goals cases withZeros_eq_instr h; exact .rxOp rfl

theorem decodeHeader_inputInstr (x : Header) (bytes : List Byte) : InputInstr (decodeHeader x bytes).1 := by
  unfold decodeHeader
  split <;> exact .wire rfl

theorem decodeWire_inputInstr {role : WireRole} {bytes rest : List Byte} {i : Instr}
    (h : decodeWire role bytes = .instr i rest) : InputInstr i := by
  cases bytes with
  | nil => cases h
  | cons x bytes =>
    cases role with
    | header => cases h; exact decodeHeader_inputInstr x bytes
    | joy => cases h; exact .wire rfl
    | trig => cases h; exact .wire rfl
    | btn => cases h; exact .wire rfl

theorem decodeInput_inputInstr {role : WireRole} {input : HostInput} {rest : List Byte} {i : Instr}
    (h : decodeInput role input = .instr i rest) : InputInstr i := by
  cases input with
  | command w v now bytes => exact decodeCommand_inputInstr h
  | resetUnit u => cases h; exact .reset u
  | wire bytes => exact decodeWire_inputInstr h

/-- Taking an input moves the queue alone, and yields only an instruction that an input can decode to. -/
theorem fetch_eq_run {s s' : State} {i : Instr} (h : fetch s = .run i s') :
    InputInstr i ∧ s' = { s with inputs := s'.inputs } := by
  unfold fetch at h
  split at h
  · cases h
  · split at h
    next hd => cases h; exact ⟨decodeInput_inputInstr hd, rfl⟩
    · cases h
    · cases h

/-- An input with nothing to run leaves both units as they are (R60, R93, R119). -/
theorem fetch_eq_done {s s' : State} (h : fetch s = .done s') : s'.tx = s.tx ∧ s'.rx = s.rx := by
  unfold fetch at h
  split at h
  · cases h; exact ⟨rfl, rfl⟩
  · split at h <;> cases h <;> exact ⟨rfl, rfl⟩

/-- A step leaves both units as they are, or runs an instruction that an input can decode to, from the state without
that input. -/
theorem step_next_cases {s t : State} (h : step s = .next t) :
    (t.tx = s.tx ∧ t.rx = s.rx)
      ∨ ∃ i inputs, InputInstr i ∧ exec i { s with inputs := inputs } = .next t := by
  obtain ⟨t', ht', hcase⟩ := step_eq s
  obtain ⟨hnext, -⟩ := inRun_eq_next.1 (ht'.symm.trans h)
  cases hnext
  obtain hdone | ⟨i, s', hrun, hexec⟩ := hcase
  · exact .inl (fetch_eq_done hdone)
  · obtain ⟨hi, hs'⟩ := fetch_eq_run hrun
    exact .inr ⟨i, s'.inputs, hi, hs' ▸ hexec⟩

/-! ### The TX registers' domains (R15, R16) -/

theorem TxRegs.inDomain_setJoy {tx : TxRegs} (h : tx.inDomain) (m : Header) (side : Side) (a : Axis) {v : Analog}
    (hv : -1 ≤ v ∧ v ≤ 1) : (markDirty m { tx with joy := joySet tx.joy side a v }).inDomain := by
  intro side'
  obtain ⟨hjoy, htrig⟩ := h side'
  refine ⟨fun a' => ?_, htrig⟩
  by_cases he : (side', a') = (side, a)
  · cases he
    simpa using hv
  · simpa [joyGet_joySet_other _ he] using hjoy a'

theorem TxRegs.inDomain_setTrig {tx : TxRegs} (h : tx.inDomain) (m : Header) (side : Side) {v : Analog}
    (hv : 0 ≤ v ∧ v ≤ 1) : (markDirty m { tx with trig := tx.trig.set side v }).inDomain := by
  intro side'
  obtain ⟨hjoy, htrig⟩ := h side'
  refine ⟨hjoy, ?_⟩
  by_cases he : side' = side
  · cases he
    simpa using hv
  · simpa [PerSide.get_set_other _ he] using htrig

theorem TxRegs.inDomain_reset : TxRegs.reset.inDomain := by
  intro side
  have hjoy : ∀ a, joyGet TxRegs.reset.joy side a = 0 := by intro a; cases side <;> cases a <;> rfl
  have htrig : TxRegs.reset.trig.get side = 0 := by cases side <;> rfl
  simp [hjoy, htrig]

/-! ### Bits 7:6 of the TX bytes (R17, R18) -/

theorem or_high_zero {x y : Byte} (hx : x &&& 0xC0 = 0) (hy : y &&& 0xC0 = 0) : (x ||| y) &&& 0xC0 = 0 := by
  rw [BitVec.and_or_distrib_right, hx, hy]
  rfl

theorem clearBit_high_zero {x : Byte} (hx : x &&& 0xC0 = 0) (b : ButtonId) : clearBit x b &&& 0xC0 = 0 := by
  rw [clearBit, BitVec.and_assoc, BitVec.and_comm (~~~_), ← BitVec.and_assoc, hx]
  exact BitVec.zero_and

/-- The bit of a button that is not reserved stands below bit 6 (R11, R73). -/
theorem buttonBit_high_zero : ∀ (b : ButtonId) (p : Bool), b.toNat ≤ 5 →
    ((if p then 1#8 else 0#8) <<< b.toNat) &&& 0xC0 = 0 := by decide

theorem setBit_high_zero {x : Byte} (hx : x &&& 0xC0 = 0) {b : ButtonId} (hb : b.toNat ≤ 5) (p : Bool) :
    setBit x b p &&& 0xC0 = 0 :=
  or_high_zero (clearBit_high_zero hx b) (buttonBit_high_zero b p hb)

theorem joyBit_high_zero (side : Side) : joyBit side &&& 0xC0 = 0 := by cases side <;> rfl

theorem trigBit_high_zero (side : Side) : trigBit side &&& 0xC0 = 0 := by cases side <;> rfl

theorem btnBit_high_zero (side : Side) : btnBit side &&& 0xC0 = 0 := by cases side <;> rfl

theorem TxRegs.highBitsZero_markDirty {tx : TxRegs} (h : tx.highBitsZero) {m : Header} (hm : m &&& 0xC0 = 0) :
    (markDirty m tx).highBitsZero :=
  ⟨h.1, or_high_zero h.2 hm⟩

theorem TxRegs.highBitsZero_setBtn {tx : TxRegs} (h : tx.highBitsZero) (side : Side) {x : Byte}
    (hx : x &&& 0xC0 = 0) : TxRegs.highBitsZero { tx with btn := tx.btn.set side x } := by
  obtain ⟨hbtn, hdirty⟩ := h
  refine ⟨fun side' => ?_, hdirty⟩
  by_cases he : side' = side
  · cases he
    simpa using hx
  · simpa [PerSide.get_set_other _ he] using hbtn side'

theorem TxRegs.highBitsZero_reset : TxRegs.reset.highBitsZero :=
  ⟨fun side => by cases side <;> rfl, rfl⟩

/-! ### The TX operations keep the TX invariant -/

/-- The tick keeps the value registers and sets the dirty header, if at all, to 0 or RIGHT_MASK (R82, R84, R85). -/
theorem updateOp_keeps_tx (now : Time) {s : State} (hd : s.tx.inDomain) (hb : s.tx.highBitsZero) :
    (updateOp now s).tx.inDomain ∧ (updateOp now s).tx.highBitsZero := by
  obtain h | ⟨-, -, h⟩ | ⟨-, -, -, h⟩ := updateOp_cases now s <;> rw [h]
  · exact ⟨hd, hb⟩
  · rw [fullSendOp_eq]; exact ⟨hd, hb.1, (by decide : (0x2A : Header) &&& 0xC0 = 0)⟩
  · rw [sendOp_eq]; exact ⟨hd, hb.1, BitVec.zero_and⟩

theorem exec_txOp_keeps_tx {i : Instr} {s t : State} (hi : isTxOp i = true) (h : exec i s = .next t)
    (hd : s.tx.inDomain) (hb : s.tx.highBitsZero) : t.tx.inDomain ∧ t.tx.highBitsZero := by
  cases i with
  | txSetJoy side a v =>
    obtain ⟨-, rfl⟩ | ⟨hv, -, rfl⟩ | ⟨-, -, rfl⟩ := exec_txSetJoy_cases h
    · exact ⟨hd, hb⟩
    · exact ⟨TxRegs.inDomain_setJoy hd _ side a hv, TxRegs.highBitsZero_markDirty hb (joyBit_high_zero side)⟩
    · exact ⟨hd, hb⟩
  | txSetTrig side v =>
    obtain ⟨-, rfl⟩ | ⟨hv, -, rfl⟩ | ⟨-, -, rfl⟩ := exec_txSetTrig_cases h
    · exact ⟨hd, hb⟩
    · exact ⟨TxRegs.inDomain_setTrig hd _ side hv, TxRegs.highBitsZero_markDirty hb (trigBit_high_zero side)⟩
    · exact ⟨hd, hb⟩
  | txSetBtn side b p =>
    obtain ⟨-, rfl⟩ | ⟨hle, -, rfl⟩ | ⟨-, -, rfl⟩ := exec_txSetBtn_cases h
    · exact ⟨hd, hb⟩
    · have hset := TxRegs.highBitsZero_setBtn hb side (setBit_high_zero (hb.1 side) hle p)
      exact ⟨hd, TxRegs.highBitsZero_markDirty hset (btnBit_high_zero side)⟩
    · exact ⟨hd, hb⟩
  | txUpdate now => cases h; exact updateOp_keeps_tx now hd hb
  | _ => cases hi

/-! ### The parser's registers (R25 to R27) -/

/-- HeaderStep stores the header's targets as the first entries of the list (R94). -/
theorem headerStep_targets_take (x : Header) (rx : RxRegs) :
    (headerStep x rx).targets.toList.take (headerLen x) = headerTargets x := by
  have hlen := headerLen_le_eight x
  refine List.ext_getElem (by simpa [headerLen] using hlen) fun k hk hk' => ?_
  have hk8 : k < Config.nTargets := Nat.lt_of_lt_of_le hk' hlen
  simp [getElem_writeTargets _ _ k _ hk8, hk']

/-- After a header the parser is at the start of the packet that it calls for, whatever came before (R94). -/
theorem RxRegs.parserOk_headerStep (x : Header) (rx : RxRegs) : (headerStep x rx).parserOk := by
  have hnum := headerStep_numBytes_toNat x rx
  exact ⟨Nat.zero_le _, hnum ▸ headerLen_le_nTargets x, x, hnum ▸ (headerStep_targets_take x rx).symm⟩

/-- A data byte that the packet still calls for moves `curByte` at most up to `numBytes` (R95). -/
theorem RxRegs.parserOk_bodyStep {rx : RxRegs} (h : rx.parserOk) (he : expectingHeader rx = false) (x : Byte) :
    (bodyStep x rx).parserOk := by
  obtain ⟨hcur, hnum, hh⟩ := h
  have hne : rx.curByte.toNat ≠ rx.numBytes.toNat := by
    simpa [expectingHeader, BitVec.toNat_inj] using he
  refine ⟨?_, by simpa [bodyStep] using hnum, by simpa [bodyStep] using hh⟩
  have hnum8 : rx.numBytes.toNat ≤ 8 := hnum
  simp only [bodyStep, advance_curByte, advance_numBytes, routeByte_curByte, routeByte_numBytes]
  bv_omega

theorem RxRegs.parserOk_parseByte {rx : RxRegs} (h : rx.parserOk) (x : Byte) : (parseByte rx x).parserOk := by
  unfold parseByte
  split
  · exact parserOk_headerStep x rx
  next he => exact parserOk_bodyStep h (Bool.not_eq_true _ ▸ he) x

theorem RxRegs.parserOk_parseBytes (bytes : List Byte) {rx : RxRegs} (h : rx.parserOk) :
    (parseBytes bytes rx).parserOk := by
  induction bytes generalizing rx with
  | nil => exact h
  | cons x bytes ih => exact ih (parserOk_parseByte h x)

/-- Both counters at 0 stand for the packet of a header without groups (R92, R97). -/
theorem RxRegs.parserOk_of_counters_zero {rx : RxRegs} (hcur : rx.curByte = 0) (hnum : rx.numBytes = 0) :
    rx.parserOk := by
  simp only [RxRegs.parserOk, hcur, hnum]
  exact ⟨Nat.le_refl _, Nat.zero_le _, 0, rfl⟩

theorem RxRegs.parserOk_timeoutResync (now : Time) (bytes : List Byte) {rx : RxRegs} (h : rx.parserOk) :
    (timeoutResync now bytes rx).parserOk := by
  unfold timeoutResync
  split
  · exact parserOk_of_counters_zero rfl rfl
  · exact h

theorem RxRegs.parserOk_pollRegs (now : Time) (bytes : List Byte) {rx : RxRegs} (h : rx.parserOk) :
    (pollRegs now bytes rx).parserOk := by
  have hparsed := parserOk_parseBytes bytes (parserOk_timeoutResync now bytes h)
  unfold pollRegs stampReceive
  split <;> exact hparsed

theorem RxRegs.parserOk_reset : RxRegs.reset.parserOk := parserOk_of_counters_zero rfl rfl

theorem exec_rxOp_keeps_parserOk {i : Instr} {s t : State} (hi : isRxOp i = true) (h : exec i s = .next t)
    (hp : s.rx.parserOk) : t.rx.parserOk := by
  obtain ⟨now, bytes, hrx⟩ | hrx := exec_rxOp_rx_cases hi h
  · exact hrx ▸ RxRegs.parserOk_pollRegs now bytes hp
  · rw [hrx]; exact hp

/-! ### The register invariant -/

/-- Settles O55: each register of R34 meets its part of the invariant. -/
theorem resetMeetsTheRegisterInvariant : Obligations.ResetMeetsTheRegisterInvariant :=
  ⟨TxRegs.inDomain_reset, TxRegs.highBitsZero_reset, RxRegs.parserOk_reset⟩

/-- The invariant is about the two units' registers alone. -/
theorem State.regsOk_congr {s t : State} (hs : s.regsOk) (htx : t.tx = s.tx) (hrx : t.rx = s.rx) : t.regsOk := by
  unfold State.regsOk
  rw [htx, hrx]
  exact hs

/-- Every instruction that an input can decode to keeps the invariant. -/
theorem exec_keeps_regsOk {i : Instr} {s t : State} (hi : InputInstr i) (h : exec i s = .next t)
    (hs : s.regsOk) : t.regsOk := by
  obtain ⟨hd, hb, hp⟩ := hs
  cases hi with
  | txOp hi =>
    obtain ⟨hrx, -⟩ := exec_txOp_frame hi h
    obtain ⟨hd', hb'⟩ := exec_txOp_keeps_tx hi h hd hb
    exact ⟨hd', hb', hrx ▸ hp⟩
  | rxOp hi =>
    obtain ⟨htx, -⟩ := exec_rxOp_frame hi h
    exact ⟨htx ▸ hd, htx ▸ hb, exec_rxOp_keeps_parserOk hi h hp⟩
  | reservedOp hi =>
    obtain ⟨w, hw⟩ := exec_of_isReservedOp hi s
    cases hw.symm.trans h
    exact ⟨hd, hb, hp⟩
  | wire hi =>
    cases (exec_of_encodeWire hi s).symm.trans h
    exact ⟨hd, hb, RxRegs.parserOk_parseBytes _ hp⟩
  | reset u =>
    cases h
    cases u with
    | tx => exact ⟨TxRegs.inDomain_reset, TxRegs.highBitsZero_reset, hp⟩
    | rx => exact ⟨hd, hb, RxRegs.parserOk_reset⟩

/-- Settles O56: a step leaves both units alone or runs an instruction that an input can decode to, and each kind of
those keeps the invariant. -/
theorem stepKeepsTheRegisterInvariant : Obligations.StepKeepsTheRegisterInvariant := by
  intro s t hs h
  obtain ⟨htx, hrx⟩ | ⟨i, inputs, hi, hexec⟩ := step_next_cases h
  · exact State.regsOk_congr hs htx hrx
  · exact exec_keeps_regsOk hi hexec hs

end Sys2Proof.Machine
end

section
/-! PROOFS. The statements of 20_memory.md: a step runs the input it decodes, the two units' operations commute, and a
frame that TX sends reads back on RX. For the last, what RX makes of any whole frame, and how near a decoded byte is to
the value it was quantised from. -/

namespace Sys2Proof.Machine

/-! ### The step (R35) -/

theorem requeue_eq (bytes : List Byte) (inputs : List HostInput) :
    requeue bytes inputs = if bytes = [] then inputs else .wire bytes :: inputs := by
  cases bytes <;> rfl

/-- An input that decodes to an instruction is taken off the queue, and the bytes it leaves go back before the rest. -/
theorem fetch_of_decodeInput {s : State} {input : HostInput} {inputs : List HostInput} {i : Instr} {more : List Byte}
    (hin : s.inputs = input :: inputs) (hdec : decodeInput (rxRole s.rx) input = .instr i more) :
    fetch s = .run i { s with inputs := if more = [] then inputs else .wire more :: inputs } := by
  simp only [fetch, hin, hdec, requeue_eq]

theorem step_of_fetch_run {s s' : State} {i : Instr} (h : fetch s = .run i s') : step s = inRun (exec i s') := by
  simp only [step, h]

/-- Settles O7: `exec` always answers a state, and the mark on it decides the step's outcome. -/
theorem stepRunsTheDecodedInput : Obligations.StepRunsTheDecodedInput := by
  intro s input inputs i more hin hdec
  obtain ⟨t, ht⟩ := exec_isNext i { s with inputs := if more = [] then inputs else .wire more :: inputs }
  have hstep : step s = if t.refusals = [] then .next t else .refused (.runRefused t) := by
    rw [step_of_fetch_run (fetch_of_decodeInput hin hdec), ht, inRun_next]
  exact ⟨t, ht, fun h => hstep.trans (if_pos h), fun h => hstep.trans (if_neg h)⟩

/-! ### What an operation of one unit reads and writes (R13, R36) -/

/-- `s` with the TX registers `tx`, and the emitted bytes and recorded refusals added to the run. -/
def State.afterTx (s : State) (tx : TxRegs) (bytes : List Byte) (records : List RefusalRecord) : State :=
  { s with tx := tx, out := s.out ++ bytes, refusals := s.refusals ++ records }

/-- `s` with the RX registers `rx`, and the returned values and recorded refusals added to the run. -/
def State.afterRx (s : State) (rx : RxRegs) (values : List ReturnValue) (records : List RefusalRecord) : State :=
  { s with rx := rx, returned := s.returned ++ values, refusals := s.refusals ++ records }

theorem State.eq_afterTx_self (s : State) : s = s.afterTx s.tx [] [] := by simp [afterTx]

theorem refuse_eq_afterTx (r : RefuseReason) (w : CmdWord) (v : Option Analog) (s : State) :
    refuse r w v s = s.afterTx s.tx [] [⟨r, w, v⟩] := by simp [refuse, State.afterTx]

theorem setTx_eq_afterTx (s : State) (tx : TxRegs) : { s with tx := tx } = s.afterTx tx [] [] := by
  simp [State.afterTx]

theorem refuse_eq_afterRx (r : RefuseReason) (w : CmdWord) (v : Option Analog) (s : State) :
    refuse r w v s = s.afterRx s.rx [] [⟨r, w, v⟩] := by simp [refuse, State.afterRx]

theorem setRx_eq_afterRx (s : State) (rx : RxRegs) : { s with rx := rx } = s.afterRx rx [] [] := by
  simp [State.afterRx]

theorem returnValue_eq_afterRx (v : ReturnValue) (s : State) : returnValue v s = s.afterRx s.rx [v] [] := by
  simp [returnValue, State.afterRx]

theorem sendOp_eq_afterTx (now : Time) (s : State) :
    sendOp now s =
      s.afterTx { s.tx with dirty := 0x00, lastSend := now } (encodeFrame s.tx.dirty s.tx) [] := by
  simp [sendOp_eq, State.afterTx]

theorem fullSendOp_eq_afterTx (now : Time) (s : State) :
    fullSendOp now s =
      s.afterTx { s.tx with dirty := 0x2A, lastSend := now, lastFull := now }
        (encodeFrame (s.tx.dirty ||| 0x15) s.tx) [] := by
  simp [fullSendOp_eq, State.afterTx]

/-- What a tick writes and emits is a function of the TX registers (R82). -/
theorem updateOp_local (now : Time) (tx : TxRegs) :
    ∃ tx' bytes, ∀ s : State, s.tx = tx → updateOp now s = s.afterTx tx' bytes [] := by
  by_cases hfloor : el now tx.lastSend ≤ 20
  · refine ⟨tx, [], ?_⟩
    rintro s rfl
    exact (updateOp_floor hfloor).trans s.eq_afterTx_self
  have hopen : 20 < el now tx.lastSend := Nat.lt_of_not_le hfloor
  by_cases hfull : 800 < el now tx.lastFull
  · refine ⟨{ tx with dirty := 0x2A, lastSend := now, lastFull := now }, encodeFrame (tx.dirty ||| 0x15) tx, ?_⟩
    rintro s rfl
    exact (updateOp_heartbeat hopen hfull).trans (fullSendOp_eq_afterTx now s)
  have hrecent : el now tx.lastFull ≤ 800 := Nat.le_of_not_lt hfull
  by_cases hdue : partialSendDue tx.dirty (el now tx.lastSend) = true
  · refine ⟨{ tx with dirty := 0x00, lastSend := now }, encodeFrame tx.dirty tx, ?_⟩
    rintro s rfl
    exact (updateOp_partial hopen hrecent hdue).trans (sendOp_eq_afterTx now s)
  · refine ⟨tx, [], ?_⟩
    rintro s rfl
    exact (updateOp_idle hopen hrecent hdue).trans s.eq_afterTx_self

/-- What a host operation of TX writes, emits and refuses is a function of the TX registers (R13, R75). -/
theorem exec_txOp_local {i : Instr} (hi : isTxOp i = true) (tx : TxRegs) :
    ∃ tx' bytes records, ∀ s : State, s.tx = tx → exec i s = .next (s.afterTx tx' bytes records) := by
  cases i with
  | txSetJoy side a v =>
    by_cases hv : outsideJoyDomain v = true
    · exact ⟨tx, [], [⟨.valueOutOfRange, wordTxSetJoy side a, some v⟩], by
        rintro s rfl; simp [exec, execTxSetJoy, hv, refuse_eq_afterTx]⟩
    by_cases hc : changed v (joyGet tx.joy side a) = true
    · exact ⟨markDirty (joyBit side) { tx with joy := joySet tx.joy side a v }, [], [], by
        rintro s rfl; simp [exec, execTxSetJoy, hv, hc, setTx_eq_afterTx]⟩
    · exact ⟨tx, [], [], by rintro s rfl; simp [exec, execTxSetJoy, hv, hc, ← State.eq_afterTx_self]⟩
  | txSetTrig side v =>
    by_cases hv : outsideTrigDomain v = true
    · exact ⟨tx, [], [⟨.valueOutOfRange, wordTxSetTrig side, some v⟩], by
        rintro s rfl; simp [exec, execTxSetTrig, hv, refuse_eq_afterTx]⟩
    by_cases hc : changed v (tx.trig.get side) = true
    · exact ⟨markDirty (trigBit side) { tx with trig := tx.trig.set side v }, [], [], by
        rintro s rfl; simp [exec, execTxSetTrig, hv, hc, setTx_eq_afterTx]⟩
    · exact ⟨tx, [], [], by rintro s rfl; simp [exec, execTxSetTrig, hv, hc, ← State.eq_afterTx_self]⟩
  | txSetBtn side b p =>
    by_cases hb : buttonReserved b = true
    · exact ⟨tx, [], [⟨.reservedButton, wordTxSetBtn side b p, none⟩], by
        rintro s rfl; simp [exec, execTxSetBtn, hb, refuse_eq_afterTx]⟩
    by_cases hc : setBit (tx.btn.get side) b p = tx.btn.get side
    · exact ⟨tx, [], [], by rintro s rfl; simp [exec, execTxSetBtn, hb, hc, ← State.eq_afterTx_self]⟩
    · exact ⟨markDirty (btnBit side) { tx with btn := tx.btn.set side (setBit (tx.btn.get side) b p) }, [], [], by
        rintro s rfl; simp [exec, execTxSetBtn, hb, hc, setTx_eq_afterTx]⟩
  | txUpdate now =>
    obtain ⟨tx', bytes, h⟩ := updateOp_local now tx
    exact ⟨tx', bytes, [], fun s hs => congrArg Host.Outcome.next (h s hs)⟩
  | _ => cases hi

/-- What a host operation of RX writes, returns and refuses is a function of the RX registers (R13). -/
theorem exec_rxOp_local {j : Instr} (hj : isRxOp j = true) (rx : RxRegs) :
    ∃ rx' values records, ∀ s : State, s.rx = rx → exec j s = .next (s.afterRx rx' values records) := by
  cases j with
  | rxPoll now bytes =>
    exact ⟨pollRegs now bytes rx, [], [], by
      rintro s rfl; simp [exec, execRxPoll, pollOp, setRx_eq_afterRx]⟩
  | rxConnected now bytes =>
    exact ⟨pollRegs now bytes rx, [.flag (linkUp now (pollRegs now bytes rx).lastReceive)], [], by
      rintro s rfl; simp [exec, execRxConnected, pollOp, returnValue, State.afterRx]⟩
  | rxGetJoy side a =>
    exact ⟨rx, [.analog (decJ (joyGet rx.joy side a))], [], by
      rintro s rfl; simp [exec, execRxGetJoy, returnValue_eq_afterRx]⟩
  | rxGetTrig side =>
    exact ⟨rx, [.analog (decT (rx.trig.get side))], [], by
      rintro s rfl; simp [exec, execRxGetTrig, returnValue_eq_afterRx]⟩
  | rxGetBtn side b =>
    by_cases hb : buttonReserved b = true
    · exact ⟨rx, [], [⟨.reservedButton, wordRxGetBtn side b, none⟩], by
        rintro s rfl; simp [exec, execRxGetBtn, hb, refuse_eq_afterRx]⟩
    · exact ⟨rx, [.flag ((rx.btn.get side).getLsbD b.toNat)], [], by
        rintro s rfl; simp [exec, execRxGetBtn, hb, returnValue_eq_afterRx]⟩
  | rxGetClick side b =>
    by_cases hb : buttonReserved b = true
    · exact ⟨rx, [], [⟨.reservedButton, wordRxGetClick side b, none⟩], by
        rintro s rfl; simp [exec, execRxGetClick, hb, refuse_eq_afterRx]⟩
    · exact ⟨{ rx with click := rx.click.set side (clearBit (rx.click.get side) b) },
        [.flag ((rx.click.get side).getLsbD b.toNat)], [], by
        rintro s rfl; simp [exec, execRxGetClick, hb, returnValue, State.afterRx]⟩
  | _ => cases hj

/-- Settles O53: each operation depends on its own unit's registers and adds to its own record of the run, so after the
other it does the same. -/
theorem unitsInterleaveFreely : Obligations.UnitsInterleaveFreely := by
  intro i j s s1 s2 t1 t2 hi hj hs1 hs2 ht1 ht2
  obtain ⟨tx', bytes, recordsTx, htx⟩ := exec_txOp_local hi s.tx
  obtain ⟨rx', values, recordsRx, hrx⟩ := exec_rxOp_local hj s.rx
  cases (htx s rfl).symm.trans hs1
  cases (hrx (s.afterTx tx' bytes recordsTx) rfl).symm.trans hs2
  cases (hrx s rfl).symm.trans ht1
  cases (htx (s.afterRx rx' values recordsRx) rfl).symm.trans ht2
  refine ⟨rfl, rfl, rfl, rfl, ?_⟩
  simp only [State.afterTx, State.afterRx, ne_eq, List.append_eq_nil_iff]
  rw [and_right_comm]

/-! ### What a data byte does to the fields (R95) -/

/-- A data byte is stored in the field of its target and in no other. -/
theorem fieldAt_routeByte (t u : Target) (x : Byte) (rx : RxRegs) :
    fieldAt (routeByte t x rx) u = if u = t then x else fieldAt rx u := by
  cases t <;> cases u <;> rfl

@[simp] theorem fieldAt_advance (rx : RxRegs) (u : Target) : fieldAt (advance rx) u = fieldAt rx u := by
  cases u <;> rfl

theorem fieldAt_bodyStep (x : Byte) (rx : RxRegs) (u : Target) :
    fieldAt (bodyStep x rx) u = if u = currentTarget rx then x else fieldAt rx u :=
  (fieldAt_advance _ u).trans (fieldAt_routeByte _ u x rx)

@[simp] theorem fieldAt_headerStep (x : Header) (rx : RxRegs) (u : Target) :
    fieldAt (headerStep x rx) u = fieldAt rx u := by
  cases u <;> rfl

/-! ### The data bytes a packet still calls for (R93 to R95) -/

/-- The targets of the data bytes that the current packet still calls for, next first. -/
def dueTargets (rx : RxRegs) : List Target := (rx.targets.toList.take rx.numBytes.toNat).drop rx.curByte.toNat

theorem dueTargets_headerStep (x : Header) (rx : RxRegs) : dueTargets (headerStep x rx) = headerTargets x := by
  rw [dueTargets, headerStep_numBytes_toNat, headerStep_targets_take]
  rfl

theorem expectingHeader_of_dueTargets_nil {rx : RxRegs} (hp : rx.parserOk) (h : dueTargets rx = []) :
    expectingHeader rx = true := by
  obtain ⟨hcur, hnum, -⟩ := hp
  have hnum8 : rx.numBytes.toNat ≤ 8 := hnum
  have hle : rx.numBytes.toNat ≤ rx.curByte.toNat := by
    simpa [dueTargets, hnum8] using h
  simpa [expectingHeader, BitVec.toNat_inj] using Nat.le_antisymm hcur hle

/-- Where a data byte is due, the body step takes it for the first due target and leaves the others due. -/
theorem dueTargets_eq_cons {rx : RxRegs} (hp : rx.parserOk) {t : Target} {ts : List Target}
    (h : dueTargets rx = t :: ts) (x : Byte) :
    expectingHeader rx = false ∧ currentTarget rx = t ∧ dueTargets (bodyStep x rx) = ts := by
  obtain ⟨-, hnum, -⟩ := hp
  have hnum8 : rx.numBytes.toNat ≤ 8 := hnum
  have hlen := congrArg List.length h
  simp only [dueTargets, List.length_drop, List.length_take, Vector.length_toList, List.length_cons] at hlen
  have hlt : rx.curByte.toNat < rx.numBytes.toNat := by omega
  have hstep : (rx.curByte + 1).toNat = rx.curByte.toNat + 1 := by bv_omega
  rw [dueTargets, List.drop_eq_getElem_cons (by simp; omega)] at h
  obtain ⟨hhead, htail⟩ := List.cons.inj h
  refine ⟨?_, ?_, ?_⟩
  · simpa [expectingHeader, ← BitVec.toNat_inj] using Nat.ne_of_lt hlt
  · rw [currentTarget_eq rx (by omega)]
    simpa using hhead
  · simpa only [dueTargets, bodyStep, advance_targets, advance_numBytes, advance_curByte, routeByte_targets,
      routeByte_numBytes, routeByte_curByte, hstep] using htail

/-- The data bytes that the packet calls for fill exactly their targets, and then a header is expected. -/
theorem parseBytes_dueTargets (f : Target → Byte) (u : Target) {rx : RxRegs} (hp : rx.parserOk) :
    fieldAt (parseBytes ((dueTargets rx).map f) rx) u = (if u ∈ dueTargets rx then f u else fieldAt rx u) ∧
      expectingHeader (parseBytes ((dueTargets rx).map f) rx) = true := by
  generalize hts : dueTargets rx = ts
  induction ts generalizing rx with
  | nil => simpa using expectingHeader_of_dueTargets_nil hp hts
  | cons t ts ih =>
    obtain ⟨he, hcur, hdue⟩ := dueTargets_eq_cons hp hts (f t)
    have hparse : parseByte rx (f t) = bodyStep (f t) rx := by simp [parseByte, he]
    obtain ⟨hfield, hend⟩ := ih (RxRegs.parserOk_bodyStep hp he (f t)) hdue
    rw [List.map_cons, parseBytes_cons, hparse]
    refine ⟨?_, hend⟩
    rw [hfield, fieldAt_bodyStep, hcur]
    by_cases hu : u = t <;> simp [hu]

/-! ### Receiving a frame (R71, R92 to R95) -/

/-- A frame parsed where a header is expected fills exactly its header's targets, and a header is expected next. -/
theorem parseBytes_encodeFrame {rx : RxRegs} (he : expectingHeader rx = true) (h : Header) (tx : TxRegs)
    (u : Target) :
    fieldAt (parseBytes (encodeFrame h tx) rx) u =
        (if u ∈ headerTargets h then byteOf tx u else fieldAt rx u) ∧
      expectingHeader (parseBytes (encodeFrame h tx) rx) = true := by
  have hparse : parseByte rx h = headerStep h rx := by simp [parseByte, he]
  have hbody := parseBytes_dueTargets (byteOf tx) u (RxRegs.parserOk_headerStep h rx)
  rwa [dueTargets_headerStep, fieldAt_headerStep, ← hparse] at hbody

@[simp] theorem fieldAt_timeoutResync (now : Time) (bytes : List Byte) (rx : RxRegs) (u : Target) :
    fieldAt (timeoutResync now bytes rx) u = fieldAt rx u := by
  unfold timeoutResync
  split <;> cases u <;> rfl

/-- Bytes that come after a long gap, or behind a whole packet, find a header expected (R92). -/
theorem expectingHeader_timeoutResync {now : Time} {bytes : List Byte} {rx : RxRegs} (hne : bytes ≠ [])
    (h : rx.curByte = rx.numBytes ∨ 2 < (now - rx.lastReceive).toNat) :
    expectingHeader (timeoutResync now bytes rx) = true := by
  unfold timeoutResync
  split
  · rfl
  next hgap =>
    obtain heq | hlong := h
    · simpa [expectingHeader] using heq
    · exact absurd ⟨hne, hlong⟩ hgap

@[simp] theorem fieldAt_stampReceive (now : Time) (bytes : List Byte) (rx : RxRegs) (u : Target) :
    fieldAt (stampReceive now bytes rx) u = fieldAt rx u := by
  unfold stampReceive
  split <;> cases u <;> rfl

/-- A poll that brings a whole frame, where a header is expected or after a long gap, fills exactly its header's
targets. -/
theorem fieldAt_pollRegs_encodeFrame {now : Time} {rx : RxRegs}
    (hready : rx.curByte = rx.numBytes ∨ 2 < (now - rx.lastReceive).toNat) (h : Header) (tx : TxRegs) (u : Target) :
    fieldAt (pollRegs now (encodeFrame h tx) rx) u =
      if u ∈ headerTargets h then byteOf tx u else fieldAt rx u := by
  have hne : encodeFrame h tx ≠ [] := List.cons_ne_nil _ _
  have he := expectingHeader_timeoutResync hne hready
  rw [pollRegs, fieldAt_stampReceive, (parseBytes_encodeFrame he h tx u).1, fieldAt_timeoutResync]

/-! ### The fields by side and axis (R68) -/

/-- The group that a target belongs to. -/
def groupOf : Target → Group
  | .jlx => .lj
  | .jly => .lj
  | .jrx => .rj
  | .jry => .rj
  | .tl => .lt
  | .tr => .rt
  | .bl => .lb
  | .br => .rb

theorem mem_groupTargets (u : Target) (g : Group) : u ∈ groupTargets g ↔ g = groupOf u := by
  cases u <;> cases g <;> decide

/-- A header names a target exactly when the bit of the target's group is set (R69). -/
theorem mem_headerTargets (h : Header) (u : Target) :
    u ∈ headerTargets h ↔ h.getLsbD (groupBit (groupOf u)) = true := by
  have hin : groupOf u ∈ groupsInOrder := by cases u <;> decide
  simp only [headerTargets, List.mem_flatMap, headerGroupTargets]
  constructor
  · rintro ⟨g, -, hg⟩
    split at hg
    next hbit => exact (mem_groupTargets u g).1 hg ▸ hbit
    · cases hg
  · intro hbit
    exact ⟨groupOf u, hin, by simpa [hbit] using (mem_groupTargets u _).2 rfl⟩

/-- The target of a joystick axis. -/
def joyTarget : Side → Axis → Target
  | .left, .x => .jlx
  | .left, .y => .jly
  | .right, .x => .jrx
  | .right, .y => .jry

/-- The target of a trigger. -/
def trigTarget : Side → Target
  | .left => .tl
  | .right => .tr

theorem groupOf_joyTarget (side : Side) (a : Axis) :
    groupOf (joyTarget side a) = if side = .left then .lj else .rj := by
  cases side <;> cases a <;> rfl

theorem groupOf_trigTarget (side : Side) : groupOf (trigTarget side) = if side = .left then .lt else .rt := by
  cases side <;> rfl

theorem groupOf_buttonTarget (side : Side) : groupOf (buttonTarget side) = if side = .left then .lb else .rb := by
  cases side <;> rfl

theorem fieldAt_joyTarget (rx : RxRegs) (side : Side) (a : Axis) :
    fieldAt rx (joyTarget side a) = joyGet rx.joy side a := by
  cases side <;> cases a <;> rfl

theorem fieldAt_trigTarget (rx : RxRegs) (side : Side) : fieldAt rx (trigTarget side) = rx.trig.get side := by
  cases side <;> rfl

theorem fieldAt_buttonTarget (rx : RxRegs) (side : Side) : fieldAt rx (buttonTarget side) = rx.btn.get side := by
  cases side <;> rfl

theorem byteOf_joyTarget (tx : TxRegs) (side : Side) (a : Axis) :
    byteOf tx (joyTarget side a) = quantJ (joyGet tx.joy side a) := by
  cases side <;> cases a <;> rfl

theorem byteOf_trigTarget (tx : TxRegs) (side : Side) : byteOf tx (trigTarget side) = quantT (tx.trig.get side) := by
  cases side <;> rfl

theorem byteOf_buttonTarget (tx : TxRegs) (side : Side) : byteOf tx (buttonTarget side) = tx.btn.get side := by
  cases side <;> rfl

/-! ### Quantising and decoding (R63 to R66) -/

/-- Rounding a number of a byte's range to the nearest byte moves it by at most 1/2. -/
theorem abs_byte_floor_sub_le {q : Rat} (h0 : 0 ≤ q) (h255 : q ≤ 255) :
    |((BitVec.ofInt 8 ⌊q + 1 / 2⌋).toNat : Rat) - q| ≤ 1 / 2 := by
  have hlow : 0 ≤ ⌊q + 1 / 2⌋ := Int.floor_nonneg.2 (by linarith)
  have hhigh : ⌊q + 1 / 2⌋ < 256 := Int.floor_lt.2 (by norm_num; linarith)
  have hnat : ((BitVec.ofInt 8 ⌊q + 1 / 2⌋).toNat : Int) = ⌊q + 1 / 2⌋ := by
    rw [BitVec.toNat_ofInt]
    omega
  have hrat : ((BitVec.ofInt 8 ⌊q + 1 / 2⌋).toNat : Rat) = (⌊q + 1 / 2⌋ : Int) := by exact_mod_cast hnat
  rw [hrat, abs_le]
  constructor
  · linarith [Int.lt_floor_add_one (q + 1 / 2)]
  · linarith [Int.floor_le (q + 1 / 2)]

/-- `DecJ` undoes `QuantJ` within half a byte step of 2/255 (R65). -/
theorem abs_decJ_quantJ_sub_le {v : Analog} (hlow : -1 ≤ v) (hhigh : v ≤ 1) : |decJ (quantJ v) - v| ≤ 1 / 255 := by
  have hround := abs_byte_floor_sub_le (q := Config.joyScale * (v + 1)) (by simp only [Config.joyScale]; linarith)
    (by simp only [Config.joyScale]; linarith)
  rw [abs_le] at hround ⊢
  simp only [decJ, quantJ, Config.joyScale] at hround ⊢
  constructor <;> linarith

/-- `DecT` undoes `QuantT` within half a byte step of 1/255 (R66). -/
theorem abs_decT_quantT_sub_le {v : Analog} (hlow : 0 ≤ v) (hhigh : v ≤ 1) : |decT (quantT v) - v| ≤ 1 / 510 := by
  have hround := abs_byte_floor_sub_le (q := Config.trigScale * v) (by simp only [Config.trigScale]; linarith)
    (by simp only [Config.trigScale]; linarith)
  rw [abs_le] at hround ⊢
  simp only [decT, quantT, Config.trigScale] at hround ⊢
  constructor <;> linarith

/-! ### The round trip (R44, R82) -/

/-- A tick emits nothing, or the frame of some header and the registers that the tick finds (R82 to R85). -/
theorem updateOp_out (now : Time) (s : State) :
    (updateOp now s).out = s.out ∨ ∃ h, (updateOp now s).out = s.out ++ encodeFrame h s.tx := by
  obtain h | ⟨-, -, h⟩ | ⟨-, -, -, h⟩ := updateOp_cases now s <;> rw [h]
  · exact .inl rfl
  · exact .inr ⟨s.tx.dirty ||| 0x15, by rw [fullSendOp_eq]⟩
  · exact .inr ⟨s.tx.dirty, by rw [sendOp_eq]⟩

/-- Settles O59: the tick's frame fills exactly its header's targets on RX with the bytes quantised from TX's registers,
and each decodes to within its tolerance. -/
theorem sentFieldsReadBackWithinTolerance : Obligations.SentFieldsReadBackWithinTolerance := by
  intro now at_ s s1 frame hdom hexec hout hne hready
  cases hexec
  obtain ⟨hrx, -⟩ := updateOp_frame now s
  obtain hnone | ⟨h, hframe⟩ := updateOp_out now s
  · exact absurd (List.append_right_eq_self.1 (hout.symm.trans hnone)) hne
  cases List.append_cancel_left (hout.symm.trans hframe)
  have hfield (u : Target) := fieldAt_pollRegs_encodeFrame hready h s.tx u
  simp only [mem_headerTargets] at hfield
  refine ⟨h, _, pollOp at_ (encodeFrame h s.tx) (updateOp now s), rfl, rfl, ?_, ?_, ?_⟩
  all_goals rw [pollOp_rx, hrx]
  · intro side a
    have hjoy := hfield (joyTarget side a)
    rw [fieldAt_joyTarget, fieldAt_joyTarget, byteOf_joyTarget] at hjoy
    obtain ⟨hlow, hhigh⟩ := (hdom side).1 a
    rw [← groupOf_joyTarget side a]
    split
    next hbit => rw [hjoy, if_pos hbit]; exact abs_decJ_quantJ_sub_le hlow hhigh
    next hbit => rw [hjoy, if_neg hbit]
  · intro side
    have htrig := hfield (trigTarget side)
    rw [fieldAt_trigTarget, fieldAt_trigTarget, byteOf_trigTarget] at htrig
    obtain ⟨-, hlow, hhigh⟩ := hdom side
    rw [← groupOf_trigTarget side]
    split
    next hbit => rw [htrig, if_pos hbit]; exact abs_decT_quantT_sub_le hlow hhigh
    next hbit => rw [htrig, if_neg hbit]
  · intro side
    have hbtn := hfield (buttonTarget side)
    rw [fieldAt_buttonTarget, fieldAt_buttonTarget, byteOf_buttonTarget] at hbtn
    rw [← groupOf_buttonTarget side]
    split
    next hbit => rw [hbtn, if_pos hbit]
    next hbit => rw [hbtn, if_neg hbit]

end Sys2Proof.Machine
end

section
/-! PROOFS. The output stream stays a sequence of whole frames (30_encoding.md R47, R49, R55; 41_tx.md R83). -/

namespace Sys2Proof.Machine

/-! ### Whole frames -/

theorem WholeFrames.append {a b : List Byte} (ha : WholeFrames a) (hb : WholeFrames b) : WholeFrames (a ++ b) := by
  induction ha with
  | nil => exact hb
  | frame h body rest hne hhigh hlen _ ih =>
    simpa using WholeFrames.frame h body (rest ++ b) hne hhigh hlen ih

/-- What the frame encoder writes for a legal header is one whole frame (R55, R71). -/
theorem wholeFrames_encodeFrame {h : Header} (hne : h ≠ 0) (hhigh : h &&& 0xC0 = 0) (tx : TxRegs) :
    WholeFrames (encodeFrame h tx) := by
  simpa [encodeFrame] using
    WholeFrames.frame h ((headerTargets h).map (byteOf tx)) [] hne hhigh (List.length_map _) .nil

/-- FULLSEND's header has the left half's bits, so it is never 0x00 (R83, R85). -/
theorem or_leftMask_ne_zero (h : Header) : h ||| 0x15 ≠ 0 := by
  intro h0
  exact absurd (BitVec.or_eq_zero_iff.1 h0).2 (by decide)

/-! ### What emits -/

/-- The tick appends no byte, or one frame headed by the dirty groups, with the left half's at a heartbeat (R82). -/
theorem updateOp_keeps_wholeFrames (now : Time) {s : State} (hb : s.tx.highBitsZero) (hout : WholeFrames s.out) :
    WholeFrames (updateOp now s).out := by
  obtain ⟨-, hdirty⟩ := hb
  obtain h | ⟨-, -, h⟩ | ⟨-, -, hdue, h⟩ := updateOp_cases now s <;> rw [h]
  · exact hout
  · rw [fullSendOp_eq]
    exact hout.append (wholeFrames_encodeFrame (or_leftMask_ne_zero _) (or_high_zero hdirty (by decide)) _)
  · rw [sendOp_eq]
    exact hout.append (wholeFrames_encodeFrame (dirty_ne_zero_of_partialSendDue hdue) hdirty _)

/-- Of the host operations of TX only the tick emits (R75). -/
theorem exec_txOp_keeps_wholeFrames {i : Instr} {s t : State} (hi : isTxOp i = true) (h : exec i s = .next t)
    (hb : s.tx.highBitsZero) (hout : WholeFrames s.out) : WholeFrames t.out := by
  cases i with
  | txSetJoy side a v =>
    obtain ⟨-, rfl⟩ | ⟨-, -, rfl⟩ | ⟨-, -, rfl⟩ := exec_txSetJoy_cases h <;> exact hout
  | txSetTrig side v =>
    obtain ⟨-, rfl⟩ | ⟨-, -, rfl⟩ | ⟨-, -, rfl⟩ := exec_txSetTrig_cases h <;> exact hout
  | txSetBtn side b p =>
    obtain ⟨-, rfl⟩ | ⟨-, -, rfl⟩ | ⟨-, -, rfl⟩ := exec_txSetBtn_cases h <;> exact hout
  | txUpdate now => cases h; exact updateOp_keeps_wholeFrames now hb hout
  | _ => cases hi

/-- Every instruction that an input can decode to keeps the output stream whole. -/
theorem exec_keeps_wholeFrames {i : Instr} {s t : State} (hi : InputInstr i) (h : exec i s = .next t)
    (hb : s.tx.highBitsZero) (hout : WholeFrames s.out) : WholeFrames t.out := by
  cases hi with
  | txOp hi => exact exec_txOp_keeps_wholeFrames hi h hb hout
  | rxOp hi =>
    obtain ⟨-, hsame⟩ := exec_rxOp_frame hi h
    exact hsame ▸ hout
  | reservedOp hi =>
    obtain ⟨w, hw⟩ := exec_of_isReservedOp hi s
    cases hw.symm.trans h
    exact hout
  | wire hi => cases (exec_of_encodeWire hi s).symm.trans h; exact hout
  | reset u => cases h; cases u <;> exact hout

/-- An input with nothing to run emits nothing (R60, R93, R119). -/
theorem fetch_done_out {s s' : State} (h : fetch s = .done s') : s'.out = s.out := by
  unfold fetch at h
  split at h
  · cases h; rfl
  · split at h <;> cases h <;> rfl

/-- Settles O57: an input with nothing to run emits nothing, and of the instructions that an input can decode to only
the tick emits, one frame with the header of a register whose bits 7:6 are 0. -/
theorem stepKeepsTheOutputWholeFrames : Obligations.StepKeepsTheOutputWholeFrames := by
  intro s t hs hout h
  obtain ⟨-, hb, -⟩ := hs
  obtain ⟨t', ht', hcase⟩ := step_eq s
  obtain ⟨hnext, -⟩ := inRun_eq_next.1 (ht'.symm.trans h)
  cases hnext
  obtain hdone | ⟨i, s', hrun, hexec⟩ := hcase
  · exact fetch_done_out hdone ▸ hout
  · obtain ⟨hi, hs'⟩ := fetch_eq_run hrun
    rw [hs'] at hexec
    exact exec_keeps_wholeFrames hi hexec hb hout

end Sys2Proof.Machine
end

section
/-! PROOFS. The command words of 30_encoding.md (R57 to R60): the decoder undoes the encoder on every word, a word that
decodes has one meaning, and what R60 and 60_exceptions.md R108 refuse is refused. Each rests on two facts about a row
of R58: the row's word decodes to its operation, and a word on the row is the one its own fields encode to. -/

namespace Sys2Proof.Machine

/-! ### The fields of a command word (R57) -/

theorem opcodeField_append_lowField (w : CmdWord) : opcodeField w ++ lowField w = w :=
  (BitVec.extractLsb'_append_extractLsb'_eq_extractLsb' rfl).trans BitVec.extractLsb'_eq_self

@[simp] theorem opcodeField_append (op : BitVec 4) (low : BitVec 12) : opcodeField (op ++ low) = op :=
  BitVec.extractLsb'_append_eq_left

@[simp] theorem lowField_append (op : BitVec 4) (low : BitVec 12) : lowField (op ++ low) = low :=
  BitVec.extractLsb'_append_eq_right

/-- The mask 0xF000 keeps the opcode alone. -/
theorem and_opcodeMask (w : CmdWord) : w &&& 0xF000 = opcodeField w ++ 0#12 := by
  calc w &&& 0xF000
      = (opcodeField w ++ lowField w) &&& (BitVec.allOnes 4 ++ 0#12) := by rw [opcodeField_append_lowField]; rfl
    _ = opcodeField w ++ 0#12 := by rw [BitVec.and_append, BitVec.and_allOnes, BitVec.and_zero]

theorem sideBit_sideField (w : CmdWord) : sideBit (sideField w) = w.extractLsb' 11 1 := by
  rw [sideField, BitVec.getLsbD_eq_extractLsb']
  generalize w.extractLsb' 11 1 = x
  revert x; decide

theorem axisBit_axisField (w : CmdWord) : axisBit (axisField w) = w.extractLsb' 10 1 := by
  rw [axisField, BitVec.getLsbD_eq_extractLsb']
  generalize w.extractLsb' 10 1 = x
  revert x; decide

theorem pressedBit_pressedField (w : CmdWord) : pressedBit (pressedField w) = w.extractLsb' 6 1 := by
  rw [pressedField, BitVec.getLsbD_eq_extractLsb']
  generalize w.extractLsb' 6 1 = x
  revert x; decide

/-! ### The words' layouts (R58) -/

/-- The layout that TX_SET_JOY and RX_GET_JOY share. -/
def joyWord (op : BitVec 4) (side : Side) (a : Axis) : CmdWord := op ++ sideBit side ++ axisBit a ++ 0#10

/-- The layout that TX_SET_TRIG and RX_GET_TRIG share. -/
def trigWord (op : BitVec 4) (side : Side) : CmdWord := op ++ sideBit side ++ 0#11

/-- The layout that RX_GET_BTN and RX_GET_CLICK share. -/
def btnWord (op : BitVec 4) (side : Side) (b : ButtonId) : CmdWord := op ++ sideBit side ++ 0#1 ++ b ++ 0#7

theorem wordTxSetJoy_eq (side : Side) (a : Axis) : wordTxSetJoy side a = joyWord 0x1#4 side a := rfl
theorem wordRxGetJoy_eq (side : Side) (a : Axis) : wordRxGetJoy side a = joyWord 0xA#4 side a := rfl
theorem wordTxSetTrig_eq (side : Side) : wordTxSetTrig side = trigWord 0x2#4 side := rfl
theorem wordRxGetTrig_eq (side : Side) : wordRxGetTrig side = trigWord 0xB#4 side := rfl
theorem wordRxGetBtn_eq (side : Side) (b : ButtonId) : wordRxGetBtn side b = btnWord 0xC#4 side b := rfl
theorem wordRxGetClick_eq (side : Side) (b : ButtonId) : wordRxGetClick side b = btnWord 0xD#4 side b := rfl

/-! ### A word on a row is the one its fields encode to (R58)

A row's mask covers the opcode and the bits fixed at 0; the fields are the rest of the word. -/

section Row
variable {w mask : CmdWord} {op : BitVec 4}

/-- The bits that a mask covers stand in the word as in the row's match. -/
theorem extract_of_row {val : CmdWord} (h : w &&& mask = val) {start len : Nat}
    (hmask : mask.extractLsb' start len = BitVec.allOnes len) :
    w.extractLsb' start len = val.extractLsb' start len := by
  rw [← h, BitVec.extractLsb'_and, hmask, BitVec.and_allOnes]

theorem extract_opcode_of_row (h : w &&& mask = op ++ 0#12) (hmask : mask.extractLsb' 12 4 = BitVec.allOnes 4) :
    w.extractLsb' 12 4 = op :=
  (extract_of_row h hmask).trans BitVec.extractLsb'_append_eq_left

theorem extract_zero_of_row (h : w &&& mask = op ++ 0#12) (start len : Nat) (hle : start + len ≤ 12)
    (hmask : mask.extractLsb' start len = BitVec.allOnes len) : w.extractLsb' start len = 0#len := by
  rw [extract_of_row h hmask, BitVec.extractLsb'_append_eq_of_add_le hle, BitVec.extractLsb'_zero]

theorem exists_joyWord_of_row (op : BitVec 4) (h : w &&& 0xF3FF = op ++ 0#12) : ∃ side a, joyWord op side a = w := by
  refine ⟨sideField w, axisField w, ?_⟩
  rw [joyWord, sideBit_sideField, axisBit_axisField, ← extract_opcode_of_row h rfl,
    ← extract_zero_of_row h 0 10 (by decide) rfl]
  simp only [BitVec.extractLsb'_append_extractLsb'_eq_extractLsb', BitVec.extractLsb'_eq_self]

theorem exists_trigWord_of_row (op : BitVec 4) (h : w &&& 0xF7FF = op ++ 0#12) : ∃ side, trigWord op side = w := by
  refine ⟨sideField w, ?_⟩
  rw [trigWord, sideBit_sideField, ← extract_opcode_of_row h rfl, ← extract_zero_of_row h 0 11 (by decide) rfl]
  simp only [BitVec.extractLsb'_append_extractLsb'_eq_extractLsb', BitVec.extractLsb'_eq_self]

theorem exists_btnWord_of_row (op : BitVec 4) (h : w &&& 0xF47F = op ++ 0#12) : ∃ side b, btnWord op side b = w := by
  refine ⟨sideField w, buttonField w, ?_⟩
  rw [btnWord, sideBit_sideField, buttonField, ← extract_opcode_of_row h rfl,
    ← extract_zero_of_row h 10 1 (by decide) rfl, ← extract_zero_of_row h 0 7 (by decide) rfl]
  simp only [BitVec.extractLsb'_append_extractLsb'_eq_extractLsb', BitVec.extractLsb'_eq_self]

theorem exists_wordTxSetBtn_of_row (h : w &&& 0xF43F = 0x3#4 ++ 0#12) : ∃ side b p, wordTxSetBtn side b p = w := by
  refine ⟨sideField w, buttonField w, pressedField w, ?_⟩
  rw [wordTxSetBtn, sideBit_sideField, pressedBit_pressedField, buttonField, ← extract_opcode_of_row h rfl,
    ← extract_zero_of_row h 10 1 (by decide) rfl, ← extract_zero_of_row h 0 6 (by decide) rfl]
  simp only [BitVec.extractLsb'_append_extractLsb'_eq_extractLsb', BitVec.extractLsb'_eq_self]

/-- A word has a row's match under the row's mask when it has the opcode, and 0 where the row fixes 0. -/
theorem and_row_of_parts {val zeros : CmdWord} (hop : w &&& 0xF000 = val) (hzeros : w &&& zeros = 0) :
    w &&& (0xF000 ||| zeros) = val := by
  rw [BitVec.and_or_distrib_left, hop, hzeros]
  exact BitVec.or_zero

end Row

/-! ### A row's word decodes to its operation (R58, R59) -/

section Decode
variable (side : Side) (a : Axis) (b : ButtonId) (p : Bool) (v : Analog) (now : Time) (bytes : List Byte)

theorem decodeCommand_wordTxSetJoy :
    decodeCommand (wordTxSetJoy side a) v now bytes = .instr (.txSetJoy side a v) [] := by
  cases side <;> cases a <;> rfl

theorem decodeCommand_wordTxSetTrig :
    decodeCommand (wordTxSetTrig side) v now bytes = .instr (.txSetTrig side v) [] := by
  cases side <;> rfl

theorem fields_wordTxSetBtn :
    opcodeField (wordTxSetBtn side b p) = 0x3 ∧ wordTxSetBtn side b p &&& 0x043F#16 = 0#16 ∧
      sideField (wordTxSetBtn side b p) = side ∧ buttonField (wordTxSetBtn side b p) = b ∧
      pressedField (wordTxSetBtn side b p) = p := by
  revert b; cases side <;> cases p <;> decide

theorem decodeCommand_wordTxSetBtn :
    decodeCommand (wordTxSetBtn side b p) v now bytes = .instr (.txSetBtn side b p) [] := by
  obtain ⟨hop, hzeros, hside, hbutton, hpressed⟩ := fields_wordTxSetBtn side b p
  simp [decodeCommand, withZeros, hop, hzeros, hside, hbutton, hpressed]

theorem decodeCommand_wordRxGetJoy :
    decodeCommand (wordRxGetJoy side a) v now bytes = .instr (.rxGetJoy side a) [] := by
  cases side <;> cases a <;> rfl

theorem decodeCommand_wordRxGetTrig :
    decodeCommand (wordRxGetTrig side) v now bytes = .instr (.rxGetTrig side) [] := by
  cases side <;> rfl

theorem fields_btnWord (op : BitVec 4) :
    opcodeField (btnWord op side b) = op ∧ btnWord op side b &&& 0x047F#16 = 0#16 ∧
      sideField (btnWord op side b) = side ∧ buttonField (btnWord op side b) = b := by
  revert op b; cases side <;> decide

theorem decodeCommand_wordRxGetBtn :
    decodeCommand (wordRxGetBtn side b) v now bytes = .instr (.rxGetBtn side b) [] := by
  obtain ⟨hop, hzeros, hside, hbutton⟩ := fields_btnWord side b 0xC#4
  simp [decodeCommand, withZeros, wordRxGetBtn_eq, hop, hzeros, hside, hbutton]

theorem decodeCommand_wordRxGetClick :
    decodeCommand (wordRxGetClick side b) v now bytes = .instr (.rxGetClick side b) [] := by
  obtain ⟨hop, hzeros, hside, hbutton⟩ := fields_btnWord side b 0xD#4
  simp [decodeCommand, withZeros, wordRxGetClick_eq, hop, hzeros, hside, hbutton]

end Decode

/-! ### The reserved opcodes (R60) -/

/-- The six reserved instructions with the twelve bits `low` as operand (assumption 17), each with its opcode. -/
def reservedRows (low : BitVec 12) : List (Instr × BitVec 4) :=
  [(.reservedOp0 low, 0x0#4), (.reservedOp5 low, 0x5#4), (.reservedOp6 low, 0x6#4),
    (.reservedOp7 low, 0x7#4), (.reservedOpE low, 0xE#4), (.reservedOpF low, 0xF#4)]

theorem exists_mem_reservedRows {op : BitVec 4} (h : op ∈ [0x0#4, 0x5#4, 0x6#4, 0x7#4, 0xE#4, 0xF#4])
    (low : BitVec 12) : ∃ i, (i, op) ∈ reservedRows low := by
  have hop : op ∈ (reservedRows low).map Prod.snd := h
  simpa using hop

/-- A reserved instruction is what its word decodes to, encodes to that word, and only marks the run. -/
theorem reservedRow_spec {low : BitVec 12} {i : Instr} {op : BitVec 4} (h : (i, op) ∈ reservedRows low) :
    (∀ v now bytes, decodeCommand (wordReserved op low) v now bytes = .instr i []) ∧
      encodeWord i = some (wordReserved op low) ∧ isReservedOp i = true ∧
      ∀ s, exec i s = .next (refuse .reservedOpcode (wordReserved op low) none s) := by
  simp only [reservedRows, List.mem_cons, Prod.mk.injEq, List.not_mem_nil, or_false] at h
  obtain ⟨rfl, rfl⟩ | ⟨rfl, rfl⟩ | ⟨rfl, rfl⟩ | ⟨rfl, rfl⟩ | ⟨rfl, rfl⟩ | ⟨rfl, rfl⟩ := h <;>
    exact ⟨by simp [decodeCommand, wordReserved], rfl, rfl, fun _ => rfl⟩

/-- Settles O48: each reserved opcode's meaning is the refusal with the whole command word. -/
theorem reservedOpcodesOnlyMarkTheRun : Obligations.ReservedOpcodesOnlyMarkTheRun := by
  intro low s i op h
  obtain ⟨-, -, -, hexec⟩ := reservedRow_spec (low := low) h
  exact hexec s

/-! ### Decoding what was encoded (R57 to R59) -/

/-- Settles O1: each word is a literal, which the decoder evaluates. -/
theorem operationWordsDecodeAsTheTableSays : Obligations.OperationWordsDecodeAsTheTableSays :=
  fun _ _ _ => ⟨rfl, rfl, rfl, rfl, rfl, rfl, rfl, rfl, rfl, rfl⟩

/-- Settles O2, instruction by instruction: the row's word decodes to its operation. -/
theorem decodeOfEncodeOfCommandWords : Obligations.DecodeOfEncodeOfCommandWords := by
  intro i w h
  cases i with
  | txSetJoy side a v => cases h; exact decodeCommand_wordTxSetJoy side a v 0 []
  | txSetTrig side v => cases h; exact decodeCommand_wordTxSetTrig side v 0 []
  | txSetBtn side b p => cases h; exact decodeCommand_wordTxSetBtn side b p 0 0 []
  | txUpdate now => cases h; rfl
  | rxPoll now bytes => cases h; rfl
  | rxConnected now bytes => cases h; rfl
  | rxGetJoy side a => cases h; exact decodeCommand_wordRxGetJoy side a 0 0 []
  | rxGetTrig side => cases h; exact decodeCommand_wordRxGetTrig side 0 0 []
  | rxGetBtn side b => cases h; exact decodeCommand_wordRxGetBtn side b 0 0 []
  | rxGetClick side b => cases h; exact decodeCommand_wordRxGetClick side b 0 0 []
  | reservedOp0 low | reservedOp5 low | reservedOp6 low | reservedOp7 low | reservedOpE low | reservedOpF low =>
    cases h; exact (reservedRow_spec (by simp [reservedRows])).1 0 0 []
  | _ => cases h

/-! ### A command word has one meaning (R57, R58, R60) -/

section Word
variable (w : CmdWord) (v : Analog) (now : Time) (bytes : List Byte)

/-- Each opcode is a reserved one or that of an operation. -/
theorem opcode_reserved_or_operation :
    w.extractLsb' 12 4 ∈ [0x0#4, 0x5#4, 0x6#4, 0x7#4, 0xE#4, 0xF#4] ∨ ∃ row ∈ operationRows, w &&& 0xF000 = row.1 := by
  simp only [and_opcodeMask, opcodeField]
  generalize w.extractLsb' 12 4 = op
  revert op; decide

/-- A word with a reserved opcode is that opcode's instruction. -/
theorem decodeCommand_of_reserved (h : w.extractLsb' 12 4 ∈ [0x0#4, 0x5#4, 0x6#4, 0x7#4, 0xE#4, 0xF#4]) :
    ∃ i, decodeCommand w v now bytes = .instr i [] ∧ encodeWord i = some w ∧ isReservedOp i = true ∧
      ∀ s, exec i s = .next (refuse .reservedOpcode w none s) := by
  obtain ⟨i, hi⟩ := exists_mem_reservedRows h (lowField w)
  obtain ⟨hdec, henc, hres, hexec⟩ := reservedRow_spec hi
  have hw : wordReserved (w.extractLsb' 12 4) (lowField w) = w := opcodeField_append_lowField w
  rw [hw] at hdec henc hexec
  exact ⟨i, hdec v now bytes, henc, hres, hexec⟩

/-- A word on an operation's row is that operation with the operands that its fields hold. -/
theorem decodeCommand_of_row {row : CmdWord × CmdWord} (hrow : row ∈ operationRows) (h : w &&& row.2 = row.1) :
    ∃ i, decodeCommand w v now bytes = .instr i [] ∧ encodeWord i = some w ∧ isCommand i = true := by
  have hfixed {x : CmdWord} (hx : w &&& 0xFFFF = x) : x = w := hx.symm.trans BitVec.and_allOnes
  simp only [operationRows, List.mem_cons, List.not_mem_nil, or_false] at hrow
  obtain rfl | rfl | rfl | rfl | rfl | rfl | rfl | rfl | rfl | rfl := hrow
  · obtain ⟨side, a, rfl⟩ := exists_joyWord_of_row 0x1#4 h
    exact ⟨_, decodeCommand_wordTxSetJoy side a v now bytes, rfl, rfl⟩
  · obtain ⟨side, rfl⟩ := exists_trigWord_of_row 0x2#4 h
    exact ⟨_, decodeCommand_wordTxSetTrig side v now bytes, rfl, rfl⟩
  · obtain ⟨side, b, p, rfl⟩ := exists_wordTxSetBtn_of_row h
    exact ⟨_, decodeCommand_wordTxSetBtn side b p v now bytes, rfl, rfl⟩
  · obtain rfl := hfixed h
    exact ⟨.txUpdate now, rfl, rfl, rfl⟩
  · obtain rfl := hfixed h
    exact ⟨.rxPoll now bytes, rfl, rfl, rfl⟩
  · obtain rfl := hfixed h
    exact ⟨.rxConnected now bytes, rfl, rfl, rfl⟩
  · obtain ⟨side, a, rfl⟩ := exists_joyWord_of_row 0xA#4 h
    exact ⟨_, decodeCommand_wordRxGetJoy side a v now bytes, rfl, rfl⟩
  · obtain ⟨side, rfl⟩ := exists_trigWord_of_row 0xB#4 h
    exact ⟨_, decodeCommand_wordRxGetTrig side v now bytes, rfl, rfl⟩
  · obtain ⟨side, b, rfl⟩ := exists_btnWord_of_row 0xC#4 h
    exact ⟨_, decodeCommand_wordRxGetBtn side b v now bytes, rfl, rfl⟩
  · obtain ⟨side, b, rfl⟩ := exists_btnWord_of_row 0xD#4 h
    exact ⟨_, decodeCommand_wordRxGetClick side b v now bytes, rfl, rfl⟩

/-- An operation's opcode has the decoder test the bits that the row fixes at 0, and nothing else (R60). -/
theorem decodeCommand_of_opcode {row : CmdWord × CmdWord} (hrow : row ∈ operationRows) (hop : w &&& 0xF000 = row.1) :
    ∃ i, decodeCommand w v now bytes = withZeros (row.2 &&& 0x0FFF) w i := by
  have hfield : opcodeField w = opcodeField row.1 := by rw [← hop, and_opcodeMask, opcodeField_append]
  simp only [operationRows, List.mem_cons, List.not_mem_nil, or_false] at hrow
  obtain rfl | rfl | rfl | rfl | rfl | rfl | rfl | rfl | rfl | rfl := hrow <;>
  · apply Exists.intro
    rw [decodeCommand, hfield]
    rfl

/-- A word with an operation's opcode and a 1 where the row fixes 0 is refused (R60). -/
theorem decodeCommand_of_not_row {row : CmdWord × CmdWord} (hrow : row ∈ operationRows) (hop : w &&& 0xF000 = row.1)
    (hne : w &&& row.2 ≠ row.1) : decodeCommand w v now bytes = .refused .reservedField := by
  obtain ⟨i, hi⟩ := decodeCommand_of_opcode w v now bytes hrow hop
  have hmask : ∀ row ∈ operationRows, 0xF000 ||| (row.2 &&& 0x0FFF) = row.2 := by simp [operationRows]
  rw [hi, withZeros, if_neg]
  exact fun hzeros => hne (hmask row hrow ▸ and_row_of_parts hop hzeros)

end Word

/-- Settles O3, by the word's opcode: a reserved one, one whose row the word stands on, or one whose row refuses it. -/
theorem everyCommandWordHasOneMeaning : Obligations.EveryCommandWordHasOneMeaning := by
  intro w v now bytes i rest h
  obtain hop | ⟨row, hrow, hop⟩ := opcode_reserved_or_operation w
  · obtain ⟨j, hdec, henc, hres, -⟩ := decodeCommand_of_reserved w v now bytes hop
    cases hdec.symm.trans h
    exact ⟨henc, rfl, by simp [isCommand, hres]⟩
  · by_cases hw : w &&& row.2 = row.1
    · obtain ⟨j, hdec, henc, hcmd⟩ := decodeCommand_of_row w v now bytes hrow hw
      cases hdec.symm.trans h
      exact ⟨henc, rfl, hcmd⟩
    · cases (decodeCommand_of_not_row w v now bytes hrow hop hw).symm.trans h

/-! ### What a step makes of a refused command (R60, R108) -/

/-- The step that takes a command whose operation refuses itself. -/
theorem step_of_refused_instr {s : State} {w : CmdWord} {v : Analog} {now : Time} {bytes : List Byte}
    {rest : List HostInput} {i : Instr} {r : RefuseReason} {value : Option Analog}
    (hin : s.inputs = .command w v now bytes :: rest) (hdec : decodeCommand w v now bytes = .instr i [])
    (hexec : ∀ s', exec i s' = .next (refuse r w value s')) :
    step s = .refused (.runRefused (refuse r w value { s with inputs := rest })) := by
  rw [step_of_fetch_run (fetch_of_decodeInput hin hdec), hexec, inRun_refuse, if_pos rfl]

/-- The step that takes a command that the decoder refuses. -/
theorem step_of_refused_word {s : State} {w : CmdWord} {v : Analog} {now : Time} {bytes : List Byte}
    {rest : List HostInput} {r : RefuseReason} (hin : s.inputs = .command w v now bytes :: rest)
    (hdec : decodeCommand w v now bytes = .refused r) :
    step s = .refused (.runRefused (refuse r w none { s with inputs := rest })) := by
  have hfetch : fetch s = .done (refuse r w none { s with inputs := rest }) := by
    simp only [fetch, hin, decodeInput, hdec, inputWord]
  simp only [step, hfetch, inRun_refuse]

theorem buttonReserved_of_six_or_seven {b : ButtonId} (h : b = 6 ∨ b = 7) : buttonReserved b = true := by
  obtain rfl | rfl := h <;> rfl

section Refused
variable {s : State} {w : CmdWord} {v : Analog} {now : Time} {bytes : List Byte} {rest : List HostInput}
  (hin : s.inputs = .command w v now bytes :: rest)
include hin

theorem step_reservedOpcode (hop : w.extractLsb' 12 4 ∈ [0x0#4, 0x5#4, 0x6#4, 0x7#4, 0xE#4, 0xF#4]) :
    step s = .refused (.runRefused (refuse .reservedOpcode w none { s with inputs := rest })) := by
  obtain ⟨i, hdec, -, -, hexec⟩ := decodeCommand_of_reserved w v now bytes hop
  exact step_of_refused_instr hin hdec hexec

theorem step_reservedField {row : CmdWord × CmdWord} (hrow : row ∈ operationRows) (hop : w &&& 0xF000 = row.1)
    (hne : w &&& row.2 ≠ row.1) :
    step s = .refused (.runRefused (refuse .reservedField w none { s with inputs := rest })) :=
  step_of_refused_word hin (decodeCommand_of_not_row w v now bytes hrow hop hne)

theorem step_reservedButton (hrow : w &&& 0xF43F = 0x3000 ∨ w &&& 0xF47F = 0xC000 ∨ w &&& 0xF47F = 0xD000)
    (hb : w.extractLsb' 7 3 = 6 ∨ w.extractLsb' 7 3 = 7) :
    step s = .refused (.runRefused (refuse .reservedButton w none { s with inputs := rest })) := by
  have hres : buttonReserved (buttonField w) = true := buttonReserved_of_six_or_seven hb
  obtain h | h | h := hrow
  · obtain ⟨side, b, p, rfl⟩ := exists_wordTxSetBtn_of_row h
    obtain ⟨-, -, -, hbutton, -⟩ := fields_wordTxSetBtn side b p
    rw [hbutton] at hres
    exact step_of_refused_instr hin (decodeCommand_wordTxSetBtn side b p v now bytes)
      fun s' => by simp [exec, execTxSetBtn, hres]
  · obtain ⟨side, b, rfl⟩ := exists_btnWord_of_row 0xC#4 h
    obtain ⟨-, -, -, hbutton⟩ := fields_btnWord side b 0xC#4
    rw [hbutton] at hres
    exact step_of_refused_instr hin (decodeCommand_wordRxGetBtn side b v now bytes)
      fun s' => by simp [exec, execRxGetBtn, hres, wordRxGetBtn_eq]
  · obtain ⟨side, b, rfl⟩ := exists_btnWord_of_row 0xD#4 h
    obtain ⟨-, -, -, hbutton⟩ := fields_btnWord side b 0xD#4
    rw [hbutton] at hres
    exact step_of_refused_instr hin (decodeCommand_wordRxGetClick side b v now bytes)
      fun s' => by simp [exec, execRxGetClick, hres, wordRxGetClick_eq]

theorem step_valueOutOfRange
    (h : (w &&& 0xF3FF = 0x1000 ∧ (v < -1 ∨ 1 < v)) ∨ (w &&& 0xF7FF = 0x2000 ∧ (v < 0 ∨ 1 < v))) :
    step s = .refused (.runRefused (refuse .valueOutOfRange w (some v) { s with inputs := rest })) := by
  obtain ⟨hrow, hv⟩ | ⟨hrow, hv⟩ := h
  · obtain ⟨side, a, rfl⟩ := exists_joyWord_of_row 0x1#4 hrow
    exact step_of_refused_instr hin (decodeCommand_wordTxSetJoy side a v now bytes)
      fun s' => by simp [exec, execTxSetJoy, (outsideJoyDomain_eq_true v).2 hv, wordTxSetJoy_eq]
  · obtain ⟨side, rfl⟩ := exists_trigWord_of_row 0x2#4 hrow
    exact step_of_refused_instr hin (decodeCommand_wordTxSetTrig side v now bytes)
      fun s' => by simp [exec, execTxSetTrig, (outsideTrigDomain_eq_true v).2 hv, wordTxSetTrig_eq]

end Refused

/-- A word with an operation's opcode that RESERVED_FIELD does not refuse stands on the operation's row. -/
theorem row_of_not_reservedField {w : CmdWord} {v : Analog} {op : BitVec 4} {mask : CmdWord}
    (hno : ¬ reasonApplies .reservedField w v) (hop : w.extractLsb' 12 4 = op)
    (hrow : (op ++ 0#12, mask) ∈ operationRows) : w &&& mask = op ++ 0#12 := by
  have hopcode : w &&& 0xF000 = op ++ 0#12 := by rw [and_opcodeMask, opcodeField, hop]
  exact by_contra fun hne => hno ⟨_, hrow, hopcode, hne⟩

/-- Settles O6: each reason by the word's row, and the lowest code because the decoder tests the row before the
operation tests its operands. -/
theorem commandsOutsideTheMapAreRefused : Obligations.CommandsOutsideTheMapAreRefused := by
  refine ⟨⟨rfl, rfl, rfl, rfl⟩, fun s w v now bytes rest hin => ⟨step_reservedOpcode hin,
    fun _ => step_reservedField hin, step_reservedButton hin, step_valueOutOfRange hin, fun r happ hmin => ?_⟩⟩
  cases r with
  | reservedOpcode => exact step_reservedOpcode hin happ
  | reservedField =>
    obtain ⟨row, hrow, hop, hne⟩ := happ
    exact step_reservedField hin hrow hop hne
  | reservedButton =>
    have hno : ¬ reasonApplies .reservedField w v := fun h => absurd (hmin _ h) (by decide)
    obtain ⟨hop, hb⟩ := happ
    simp only [List.mem_cons, List.not_mem_nil, or_false] at hop hb
    refine step_reservedButton hin ?_ hb
    exact hop.imp (row_of_not_reservedField hno · (by decide))
      (Or.imp (row_of_not_reservedField hno · (by decide)) (row_of_not_reservedField hno · (by decide)))
  | valueOutOfRange =>
    have hno : ¬ reasonApplies .reservedField w v := fun h => absurd (hmin _ h) (by decide)
    refine step_valueOutOfRange hin (Or.imp ?_ ?_ happ)
    · exact And.imp_left (row_of_not_reservedField hno · (by decide))
    · exact And.imp_left (row_of_not_reservedField hno · (by decide))

end Sys2Proof.Machine
end

section
/-! PROOFS. The wire bytes of 30_encoding.md (R47 to R56): the decoder gives back every wire element at its place, and
rejects and loses no byte. -/

namespace Sys2Proof.Machine

/-! ### The fields of a header byte (R48) -/

@[simp] theorem unusedField_headerByte (u : BitVec 2) (g : BitVec Config.nGroups) :
    unusedField (headerByte u g) = u :=
  BitVec.extractLsb'_append_eq_left

@[simp] theorem groupField_headerByte (u : BitVec 2) (g : BitVec Config.nGroups) :
    groupField (headerByte u g) = g :=
  BitVec.extractLsb'_append_eq_right

theorem headerByte_fields (h : Header) : headerByte (unusedField h) (groupField h) = h :=
  (BitVec.extractLsb'_append_extractLsb'_eq_extractLsb' rfl).trans BitVec.extractLsb'_eq_self

/-- A header is its unused bits and the group bits that it is seen to have. -/
theorem headerByte_of_groupField {h : Header} {n : Nat} (hg : (groupField h).toNat = n) :
    headerByte (unusedField h) (BitVec.ofNat Config.nGroups n) = h := by
  rw [← hg, BitVec.ofNat_toNat, BitVec.setWidth_eq, headerByte_fields]

/-! ### A header and the bytes behind it (R50, R68) -/

/-- A header with nothing behind it stands for itself. -/
theorem decodeHeader_nil (h : Header) : decodeHeader h [] = (.wireHeader h, []) := by
  unfold decodeHeader
  split
  case h_7 => rfl
  all_goals contradiction

/-- Whatever a header is taken as, its byte and the bytes behind it are those taken and those left. -/
theorem decodeHeader_bytes (h : Header) (bytes : List Byte) :
    ∃ taken, encodeWire (decodeHeader h bytes).1 = some taken ∧ h :: bytes = taken ++ (decodeHeader h bytes).2 := by
  unfold decodeHeader
  split
  case h_7 => exact ⟨[h], rfl, rfl⟩
  all_goals
    next hg => exact ⟨_, rfl, congrArg (· :: _) (headerByte_of_groupField hg).symm⟩

/-- Settles O5: a data byte is taken alone, and a header with the bytes of its frame or alone. -/
theorem noWireByteIsRejected : Obligations.NoWireByteIsRejected := by
  intro role b bytes
  cases role with
  | header =>
    obtain ⟨taken, henc, hsplit⟩ := decodeHeader_bytes b bytes
    exact ⟨_, taken, _, rfl, henc, hsplit⟩
  | joy => exact ⟨.wireJoyByte b, [b], bytes, rfl, rfl, rfl⟩
  | trig => exact ⟨.wireTrigByte b, [b], bytes, rfl, rfl, rfl⟩
  | btn => exact ⟨.wireBtnByte b, [b], bytes, rfl, rfl, rfl⟩

/-- Settles O4: a data byte's kind is the role that is due, and a header byte gives back both of its fields. -/
theorem decodeOfEncodeOfWireElements : Obligations.DecodeOfEncodeOfWireElements := by
  intro i bytes h
  cases i with
  | wireHeader x => cases h; simp [wireRoleOf, decodeWire, decodeHeader_nil]
  | frameGroupLJ u x y | frameGroupRJ u x y | frameGroupLT u x | frameGroupRT u x | frameGroupLB u x
  | frameGroupRB u x =>
    cases h
    simp only [wireRoleOf, decodeWire, decodeHeader, groupField_headerByte, unusedField_headerByte]
    rfl
  | wireJoyByte x | wireTrigByte x | wireBtnByte x => cases h; rfl
  | _ => cases h

end Sys2Proof.Machine
end

section
/-! PROOFS. The statements of 40_codec.md: elapsed time, the quantisers and their inverses, a header's targets, the
frame encoder, and what RX makes of a frame. A packet parsed where a header is due is its data bytes stored one after
the other, with the parser's own registers moved to the packet's end. -/

namespace Sys2Proof.Machine

/-! ### Elapsed time (R72) -/

/-- Settles O30: both subtractions are modulo 2^32. -/
theorem elapsedTimeIsWraparoundSafe : Obligations.ElapsedTimeIsWraparoundSafe := by
  intro t d
  simp only [el_eq_mod, BitVec.toNat_ofNat, Config.timeWidth]
  omega

/-! ### Quantising (R63, R64) -/

/-- The byte that a number of a byte's range rounds to: no bit of the floor is lost, and it is at most 1/2 away. -/
theorem byte_floor_nearest {q : Rat} (h0 : 0 ≤ q) (h255 : q ≤ 255) :
    ((BitVec.ofInt 8 ⌊q + 1 / 2⌋).toNat : Int) = ⌊q + 1 / 2⌋ ∧
      |q - (BitVec.ofInt 8 ⌊q + 1 / 2⌋).toNat| ≤ 1 / 2 := by
  refine ⟨?_, abs_sub_comm q _ ▸ abs_byte_floor_sub_le h0 h255⟩
  have hlow : 0 ≤ ⌊q + 1 / 2⌋ := Int.floor_nonneg.2 (by linarith)
  have hhigh : ⌊q + 1 / 2⌋ < 256 := Int.floor_lt.2 (by norm_num; linarith)
  rw [BitVec.toNat_ofInt]
  omega

/-- The numbers from n - 1/2, the tie, up to n + 1/2, the next one, round to the byte n. -/
theorem toNat_byte_floor_eq {q : Rat} {n : Nat} (hn : n ≤ 255) (hlow : (n : Rat) ≤ q + 1 / 2)
    (hhigh : q + 1 / 2 < n + 1) : (BitVec.ofInt 8 ⌊q + 1 / 2⌋).toNat = n := by
  have hfloor : ⌊q + 1 / 2⌋ = (n : Int) := Int.floor_eq_iff.2 ⟨by exact_mod_cast hlow, by exact_mod_cast hhigh⟩
  rw [hfloor, BitVec.toNat_ofInt]
  omega

/-- `QuantJ` gives the byte n on [(2n - 256)/255, (2n - 254)/255), whose lower end is the tie below n. -/
theorem toNat_quantJ_eq {v : Analog} {n : Nat} (hn : n ≤ 255) (hlow : (2 * n - 256) / 255 ≤ v)
    (hhigh : v < (2 * n - 254) / 255) : (quantJ v).toNat = n :=
  toNat_byte_floor_eq hn (by simp only [Config.joyScale]; linarith) (by simp only [Config.joyScale]; linarith)

/-- `QuantT` gives the byte n on [(2n - 1)/510, (2n + 1)/510), whose lower end is the tie below n. -/
theorem toNat_quantT_eq {v : Analog} {n : Nat} (hn : n ≤ 255) (hlow : (2 * n - 1) / 510 ≤ v)
    (hhigh : v < (2 * n + 1) / 510) : (quantT v).toNat = n :=
  toNat_byte_floor_eq hn (by simp only [Config.trigScale]; linarith) (by simp only [Config.trigScale]; linarith)

/-- Settles O25: in the domain the scaled value lies in a byte's range, and each end and tie in its byte's interval. -/
theorem quantJRoundsToNearestTiesUp : Obligations.QuantJRoundsToNearestTiesUp := by
  refine ⟨fun v hlow hhigh => ?_, ?_, ?_, ?_, fun k hk => ?_⟩
  · have h0 : 0 ≤ Config.joyScale * (v + 1) := by simp only [Config.joyScale]; linarith
    have h255 : Config.joyScale * (v + 1) ≤ 255 := by simp only [Config.joyScale]; linarith
    have hscale : (255 * (v + 1) + 1) / 2 = Config.joyScale * (v + 1) + 1 / 2 := by
      simp only [Config.joyScale]; ring
    rw [hscale]
    exact byte_floor_nearest h0 h255
  · exact BitVec.eq_of_toNat_eq (toNat_quantJ_eq (n := 0) (by decide) (by norm_num) (by norm_num))
  · exact BitVec.eq_of_toNat_eq (toNat_quantJ_eq (n := 255) (by decide) (by norm_num) (by norm_num))
  · exact BitVec.eq_of_toNat_eq (toNat_quantJ_eq (n := 128) (by decide) (by norm_num) (by norm_num))
  · exact toNat_quantJ_eq hk (by push_cast; linarith) (by push_cast; linarith)

/-- Settles O26: in the domain the scaled value lies in a byte's range, and each end and tie in its byte's interval. -/
theorem quantTRoundsToNearestTiesUp : Obligations.QuantTRoundsToNearestTiesUp := by
  refine ⟨fun v hlow hhigh => ?_, ?_, ?_, fun k hk => ?_⟩
  · have h0 : 0 ≤ Config.trigScale * v := by simp only [Config.trigScale]; linarith
    have h255 : Config.trigScale * v ≤ 255 := by simp only [Config.trigScale]; linarith
    exact byte_floor_nearest h0 h255
  · exact BitVec.eq_of_toNat_eq (toNat_quantT_eq (n := 0) (by decide) (by norm_num) (by norm_num))
  · exact BitVec.eq_of_toNat_eq (toNat_quantT_eq (n := 255) (by decide) (by norm_num) (by norm_num))
  · exact toNat_quantT_eq hk (by push_cast; linarith) (by push_cast; linarith)

/-! ### Decoding (R65, R66) -/

theorem decJ_eq (x : Byte) : decJ x = (2 * (x.toNat : Rat) - 255) / 255 := by
  simp only [decJ, Config.joyScale]
  ring

/-- The centre would be the byte 127.5: twice a byte is even and 255 is odd. -/
theorem decJ_ne_zero (x : Byte) : decJ x ≠ 0 := by
  have hodd : 2 * x.toNat ≠ 255 := by omega
  have hrat : 2 * (x.toNat : Rat) ≠ 255 := by exact_mod_cast hodd
  rw [decJ_eq]
  exact div_ne_zero (sub_ne_zero.2 hrat) (by norm_num)

/-- Settles O27. -/
theorem decJUndoesQuantJWithinTolerance : Obligations.DecJUndoesQuantJWithinTolerance :=
  ⟨fun x => ⟨decJ_eq x, decJ_ne_zero x⟩, fun _ => abs_decJ_quantJ_sub_le⟩

/-- Settles O28: DecT is the quotient as it stands. -/
theorem decTUndoesQuantTWithinTolerance : Obligations.DecTUndoesQuantTWithinTolerance :=
  ⟨fun _ => rfl, fun _ => abs_decT_quantT_sub_le⟩

/-! ### A header's targets (R69, R70) -/

theorem headerGroupTargets_sublist (h : Header) (g : Group) : (headerGroupTargets h g).Sublist (groupTargets g) := by
  unfold headerGroupTargets
  split
  · exact List.Sublist.refl _
  · exact List.nil_sublist _

/-- All targets, group by group, stand in index order (R11, R68). -/
theorem groupTargets_ascend :
    (groupsInOrder.flatMap groupTargets).Pairwise (fun t u => targetIndex t < targetIndex u) := by
  rw [← List.pairwise_map (f := targetIndex) (R := (· < ·)), groupTargets_indexes]
  exact List.pairwise_lt_range

theorem headerTargets_ascend (h : Header) :
    (headerTargets h).Pairwise (fun t u => targetIndex t < targetIndex u) :=
  groupTargets_ascend.sublist (List.Sublist.flatMap_right _ fun g _ => headerGroupTargets_sublist h g)

theorem length_headerGroupTargets (h : Header) (g : Group) :
    (headerGroupTargets h g).length = (groupTargets g).length * (h.getLsbD (groupBit g)).toNat := by
  unfold headerGroupTargets
  split
  next hbit => simp [hbit]
  next hbit => simp [hbit]

/-- A header calls for the bytes of its set groups (R70). -/
theorem headerLen_eq_sum (h : Header) :
    headerLen h = (groupsInOrder.map fun g => (groupTargets g).length * (h.getLsbD (groupBit g)).toNat).sum := by
  simp only [headerLen, headerTargets, List.length_flatMap, length_headerGroupTargets]

/-- Settles O29: the targets are a sublist of all targets in index order, and each group counts by its bit. -/
theorem headerTargetsAscendAndCount : Obligations.HeaderTargetsAscendAndCount := by
  refine fun h => ⟨headerTargets_ascend h, fun t => ?_, ?_⟩
  · simp [mem_headerTargets, mem_groupTargets]
  · rw [headerLen_eq_sum]
    simp only [groupsInOrder, groupTargets, groupBit, List.map_cons, List.map_nil, List.sum_cons, List.sum_nil,
      List.length_cons, List.length_nil]
    omega

/-! ### The frame encoder (R71) -/

/-- The data bytes of one group: its targets' bytes if its header bit is set. -/
def groupBytes (h : Header) (tx : TxRegs) (g : Group) : List Byte :=
  if h.getLsbD (groupBit g) then (groupTargets g).map (byteOf tx) else []

theorem map_byteOf_headerGroupTargets (h : Header) (tx : TxRegs) (g : Group) :
    (headerGroupTargets h g).map (byteOf tx) = groupBytes h tx g := by
  unfold headerGroupTargets groupBytes
  split <;> rfl

/-- A frame is its header and then its groups' bytes, in header-bit order. -/
theorem encodeFrame_eq_groupBytes (h : Header) (tx : TxRegs) :
    encodeFrame h tx = h :: groupsInOrder.flatMap (groupBytes h tx) := by
  simp only [encodeFrame, headerTargets, List.map_flatMap, map_byteOf_headerGroupTargets]

/-- Settles O12, group by group. -/
theorem frameHoldsExactlyTheSetGroups : Obligations.FrameHoldsExactlyTheSetGroups := by
  intro h tx
  refine ⟨?_, encodeFrame_length h tx, (encodeFrame_length h tx).trans_le (frameLen_bounds h).2⟩
  rw [encodeFrame_eq_groupBytes]
  simp only [groupsInOrder, List.flatMap_cons, List.flatMap_nil, List.append_nil, List.cons_append, List.nil_append,
    List.append_assoc]
  rfl

/-! ### Receiving a frame of TX (R92 to R95) -/

theorem curByte_eq_numBytes {rx : RxRegs} (h : expectingHeader rx = true) : rx.curByte = rx.numBytes :=
  eq_of_beq h

theorem sameButRx_setRx (s : State) (rx : RxRegs) : sameButRx s { s with rx := rx } :=
  ⟨rfl, rfl, rfl, rfl, rfl⟩

/-- After a poll that brings a whole frame, where a header is expected or after a long gap, a header is expected. -/
theorem expectingHeader_pollRegs_encodeFrame {now : Time} {rx : RxRegs}
    (hready : rx.curByte = rx.numBytes ∨ 2 < (now - rx.lastReceive).toNat) (h : Header) (tx : TxRegs) :
    expectingHeader (pollRegs now (encodeFrame h tx) rx) = true := by
  have he := expectingHeader_timeoutResync (List.cons_ne_nil h ((headerTargets h).map (byteOf tx))) hready
  obtain ⟨-, hend⟩ := parseBytes_encodeFrame he h tx .jlx
  exact hend

/-- Settles O58: the frame's bytes find a header expected, fill exactly the header's targets and are a whole packet. -/
theorem receivedFrameFillsExactlyItsTargets : Obligations.ReceivedFrameFillsExactlyItsTargets := by
  intro h tx now s hready
  refine ⟨pollOp now (encodeFrame h tx) s, rfl, fieldAt_pollRegs_encodeFrame hready h tx, ?_, ?_, sameButRx_setRx s _⟩
  · exact curByte_eq_numBytes (expectingHeader_pollRegs_encodeFrame hready h tx)
  · rw [pollOp_rx, pollRegs_of_ne_nil now (bytes := encodeFrame h tx) (List.cons_ne_nil _ _)]

/-! ### Storing the data bytes of a packet (R95, R96) -/

/-- The data bytes, each stored at its target, in order. -/
def routeBytes (data : List (Target × Byte)) (rx : RxRegs) : RxRegs :=
  data.foldl (fun rx d => routeByte d.1 d.2 rx) rx

@[simp] theorem routeBytes_nil (rx : RxRegs) : routeBytes [] rx = rx := rfl

@[simp] theorem routeBytes_cons (t : Target) (x : Byte) (data : List (Target × Byte)) (rx : RxRegs) :
    routeBytes ((t, x) :: data) rx = routeBytes data (routeByte t x rx) := rfl

/-- The parser's own registers, written (R25 to R27). -/
def withParser (targets : Vector Target Config.nTargets) (numBytes curByte : U4) (rx : RxRegs) : RxRegs :=
  { rx with targets := targets, numBytes := numBytes, curByte := curByte }

theorem routeByte_withParser (targets : Vector Target Config.nTargets) (n c : U4) (t : Target) (x : Byte)
    (rx : RxRegs) : routeByte t x (withParser targets n c rx) = withParser targets n c (routeByte t x rx) := by
  cases t <;> rfl

/-- What a data byte is stored as does not depend on the parser's registers. -/
theorem routeBytes_withParser (targets : Vector Target Config.nTargets) (n c : U4) (data : List (Target × Byte))
    (rx : RxRegs) : routeBytes data (withParser targets n c rx) = withParser targets n c (routeBytes data rx) := by
  induction data generalizing rx with
  | nil => rfl
  | cons d data ih => rw [routeBytes_cons, routeBytes_cons, routeByte_withParser, ih]

theorem headerStep_eq_withParser (x : Header) (rx : RxRegs) :
    headerStep x rx = withParser (headerStep x rx).targets (headerStep x rx).numBytes 0 rx := rfl

theorem bodyStep_eq_withParser (x : Byte) (rx : RxRegs) :
    bodyStep x rx = withParser rx.targets rx.numBytes (rx.curByte + 1) (routeByte (currentTarget rx) x rx) := by
  unfold bodyStep
  cases currentTarget rx <;> rfl

/-- The data bytes that a packet still calls for are stored in order, and the parser comes to the packet's end. -/
theorem parseBytes_of_length_eq {rx : RxRegs} (hp : rx.parserOk) {xs : List Byte}
    (hlen : xs.length = (dueTargets rx).length) :
    parseBytes xs rx = withParser rx.targets rx.numBytes rx.numBytes (routeBytes ((dueTargets rx).zip xs) rx) := by
  generalize hts : dueTargets rx = ts at hlen
  induction ts generalizing rx xs with
  | nil =>
    obtain rfl := List.length_eq_zero_iff.1 hlen
    have hcur := curByte_eq_numBytes (expectingHeader_of_dueTargets_nil hp hts)
    exact congrArg (withParser rx.targets rx.numBytes · rx) hcur
  | cons t ts ih =>
    obtain ⟨x, xs, rfl⟩ := List.exists_cons_of_length_eq_add_one hlen
    obtain ⟨he, hcur, hdue⟩ := dueTargets_eq_cons hp hts x
    have hparse : parseByte rx x = bodyStep x rx := by simp [parseByte, he]
    rw [parseBytes_cons, hparse, ih (RxRegs.parserOk_bodyStep hp he x) hdue (Nat.succ.inj hlen),
      bodyStep_eq_withParser, hcur, routeBytes_withParser]
    rfl

/-- A header and the data bytes it calls for, where a header is due: the bytes are stored at the header's targets in
order, and the parser comes to the packet's end. -/
theorem parseBytes_packet {rx : RxRegs} (he : expectingHeader rx = true) {h : Header} {xs : List Byte}
    (hlen : xs.length = (headerTargets h).length) :
    ∃ targets n, parseBytes (h :: xs) rx = withParser targets n n (routeBytes ((headerTargets h).zip xs) rx) := by
  have hparse : parseByte rx h = headerStep h rx := by simp [parseByte, he]
  rw [← dueTargets_headerStep h rx] at hlen
  rw [parseBytes_cons, hparse, parseBytes_of_length_eq (RxRegs.parserOk_headerStep h rx) hlen, dueTargets_headerStep,
    headerStep_eq_withParser, routeBytes_withParser]
  exact ⟨_, _, rfl⟩

/-! ### The one-group frames (R68) -/

/-- A header whose only group bit is the group's names the group's targets, whatever its bits 7:6 (R49, R69). -/
theorem headerTargets_oneGroup (u : BitVec 2) (g : Group) :
    headerTargets (headerByte u (1#Config.nGroups <<< groupBit g)) = groupTargets g := by
  revert u
  cases g <;> decide

/-- A one-group frame where a header is due stores its data bytes at the group's targets in order, and the parser comes
to the packet's end; nothing else changes. -/
theorem exec_oneGroupFrame (g : Group) {u : BitVec 2} {xs : List Byte} {i : Instr}
    (henc : encodeWire i = some (headerByte u (1#Config.nGroups <<< groupBit g) :: xs))
    (hlen : xs.length = (groupTargets g).length) {s : State} (hs : s.rx.curByte = s.rx.numBytes) :
    ∃ targets n, exec i s =
      .next { s with rx := withParser targets n n (routeBytes ((groupTargets g).zip xs) s.rx) } := by
  have he : expectingHeader s.rx = true := beq_iff_eq.2 hs
  rw [← headerTargets_oneGroup u g] at hlen ⊢
  obtain ⟨targets, n, hparse⟩ := parseBytes_packet he hlen
  exact ⟨targets, n, by rw [exec_of_encodeWire henc, consumeOp, hparse]⟩

/-- Settles O44: what each group's data bytes are stored as. -/
theorem groupFramesFillTheirRegisters : Obligations.GroupFramesFillTheirRegisters := by
  intro u x y s hs
  refine ⟨?_, ?_, ?_, ?_, ?_, ?_⟩
  · obtain ⟨_, _, hexec⟩ := exec_oneGroupFrame .lj (i := .frameGroupLJ u x y) rfl rfl hs
    exact ⟨_, hexec, rfl, rfl, rfl, rfl, rfl, sameButRx_setRx s _⟩
  · obtain ⟨_, _, hexec⟩ := exec_oneGroupFrame .rj (i := .frameGroupRJ u x y) rfl rfl hs
    exact ⟨_, hexec, rfl, rfl, rfl, rfl, rfl, sameButRx_setRx s _⟩
  · obtain ⟨_, _, hexec⟩ := exec_oneGroupFrame .lt (i := .frameGroupLT u x) rfl rfl hs
    exact ⟨_, hexec, rfl, rfl, rfl, rfl, rfl, sameButRx_setRx s _⟩
  · obtain ⟨_, _, hexec⟩ := exec_oneGroupFrame .rt (i := .frameGroupRT u x) rfl rfl hs
    exact ⟨_, hexec, rfl, rfl, rfl, rfl, rfl, sameButRx_setRx s _⟩
  · obtain ⟨_, _, hexec⟩ := exec_oneGroupFrame .lb (i := .frameGroupLB u x) rfl rfl hs
    exact ⟨_, hexec, rfl, rfl, rfl, rfl, rfl, sameButRx_setRx s _⟩
  · obtain ⟨_, _, hexec⟩ := exec_oneGroupFrame .rb (i := .frameGroupRB u x) rfl rfl hs
    exact ⟨_, hexec, rfl, rfl, rfl, rfl, rfl, sameButRx_setRx s _⟩

end Sys2Proof.Machine
end

section
/-! PROOFS. The statements of 41_tx.md: what a setter, SEND, FULLSEND and a tick do, and what follows along a run of
commands. A command is a tick or sends nothing, and a tick within the rate floor does nothing; so between two sends the
dirty header only grows. -/

namespace Sys2Proof.Machine

/-! ### The setters (R78 to R80) -/

theorem joyBit_eq (side : Side) : joyBit side = if side = .left then 0x01 else 0x02 := by cases side <;> rfl

theorem trigBit_eq (side : Side) : trigBit side = if side = .left then 0x04 else 0x08 := by cases side <;> rfl

theorem btnBit_eq (side : Side) : btnBit side = if side = .left then 0x10 else 0x20 := by cases side <;> rfl

theorem sameButTx_setTx (s : State) (tx : TxRegs) : sameButTx s { s with tx := tx } :=
  ⟨rfl, rfl, rfl, rfl, rfl⟩

/-- Settles O9: inside the domain the axis is stored with its dirty bit, or nothing happens. -/
theorem txSetJoyStoresAChangedAxis : Obligations.TxSetJoyStoresAChangedAxis := by
  intro side a v s hlow hhigh
  obtain ⟨t, ht⟩ := exec_isNext (.txSetJoy side a v) s
  refine ⟨t, ht, ?_⟩
  obtain ⟨hv, -⟩ | ⟨-, hchanged, rfl⟩ | ⟨-, hnear, rfl⟩ := exec_txSetJoy_cases ht
  · exact absurd hv (not_or.2 ⟨not_lt.2 hlow, not_lt.2 hhigh⟩)
  · exact ⟨fun _ => ⟨joyGet_joySet_same _ side a v, congrArg (s.tx.dirty ||| ·) (joyBit_eq side)⟩,
      fun hnear => absurd hchanged (not_lt.2 hnear), fun _ _ hne => joyGet_joySet_other _ hne v,
      rfl, rfl, rfl, rfl, sameButTx_setTx s _⟩
  · exact ⟨fun hchanged => absurd hchanged (not_lt.2 hnear), fun _ => rfl, fun _ _ _ => rfl,
      rfl, rfl, rfl, rfl, sameButTx_setTx t t.tx⟩

/-- Settles O10: inside the domain the trigger is stored with its dirty bit, or nothing happens. -/
theorem txSetTrigStoresAChangedValue : Obligations.TxSetTrigStoresAChangedValue := by
  intro side v s hlow hhigh
  obtain ⟨t, ht⟩ := exec_isNext (.txSetTrig side v) s
  refine ⟨t, ht, ?_⟩
  obtain ⟨hv, -⟩ | ⟨-, hchanged, rfl⟩ | ⟨-, hnear, rfl⟩ := exec_txSetTrig_cases ht
  · exact absurd hv (not_or.2 ⟨not_lt.2 hlow, not_lt.2 hhigh⟩)
  · exact ⟨fun _ => ⟨PerSide.get_set_same _ side v, congrArg (s.tx.dirty ||| ·) (trigBit_eq side)⟩,
      fun hnear => absurd hchanged (not_lt.2 hnear), fun _ hne => PerSide.get_set_other _ hne v,
      rfl, rfl, rfl, rfl, sameButTx_setTx s _⟩
  · exact ⟨fun hchanged => absurd hchanged (not_lt.2 hnear), fun _ => rfl, fun _ _ => rfl,
      rfl, rfl, rfl, rfl, sameButTx_setTx t t.tx⟩

/-- Clearing bit b leaves every other bit (R73). -/
theorem getLsbD_clearBit (x : Byte) (b : ButtonId) (k : Nat) :
    (clearBit x b).getLsbD k = (x.getLsbD k && decide (k ≠ b.toNat)) := by
  have hb : b.toNat < 8 := b.isLt
  rw [clearBit, ← BitVec.twoPow_eq, BitVec.getLsbD_and, BitVec.getLsbD_not, BitVec.getLsbD_twoPow]
  by_cases hk : k < 8
  · simp [hk, hb, eq_comm]
  · simp [BitVec.getLsbD_of_ge x k (Nat.le_of_not_lt hk)]

/-- `SetBit` makes bit b `p` and leaves every other bit (R73). -/
theorem getLsbD_setBit (x : Byte) (b : ButtonId) (p : Bool) (k : Nat) :
    (setBit x b p).getLsbD k = if k = b.toNat then p else x.getLsbD k := by
  have hb : b.toNat < 8 := b.isLt
  rw [setBit, BitVec.getLsbD_or, getLsbD_clearBit]
  cases p with
  | false => by_cases hk : k = b.toNat <;> simp [hk]
  | true =>
    rw [if_pos rfl, ← BitVec.twoPow_eq, BitVec.getLsbD_twoPow]
    by_cases hk : k = b.toNat
    · simp [hk, hb]
    · simp [hk, Ne.symm hk]

/-- `SetBit` changes the byte exactly when bit b was not already `p`. -/
theorem setBit_eq_self_iff (x : Byte) (b : ButtonId) (p : Bool) : setBit x b p = x ↔ x.getLsbD b.toNat = p := by
  constructor
  · intro h
    rw [← h, getLsbD_setBit, if_pos rfl]
  · intro h
    refine BitVec.eq_of_getLsbD_eq fun k _ => ?_
    rw [getLsbD_setBit]
    split
    next hk => rw [hk, h]
    · rfl

/-- Settles O11: changed or not, the side's byte ends as `SetBit` of the old one. -/
theorem txSetBtnSetsOneBit : Obligations.TxSetBtnSetsOneBit := by
  intro side b p s hb
  obtain ⟨t, ht⟩ := exec_isNext (.txSetBtn side b p) s
  refine ⟨t, ht, ?_⟩
  obtain ⟨hlt, -⟩ | ⟨-, hne, rfl⟩ | ⟨-, hsame, rfl⟩ := exec_txSetBtn_cases ht
  · exact absurd hlt (not_lt.2 hb)
  · have hbit := mt (setBit_eq_self_iff _ b p).2 hne
    simp only [markDirty_btn, PerSide.get_set_same, getLsbD_setBit]
    exact ⟨if_pos trivial, fun _ hk => if_neg hk, fun _ hother => PerSide.get_set_other _ hother _,
      by rw [if_neg hbit, ← btnBit_eq]; rfl, rfl, rfl, rfl, rfl, sameButTx_setTx s _⟩
  · have hbit := (setBit_eq_self_iff _ b p).1 hsame
    exact ⟨hbit, fun _ _ => rfl, fun _ _ => rfl, (if_pos hbit).symm, rfl, rfl, rfl, rfl, sameButTx_setTx t t.tx⟩

/-! ### SEND, FULLSEND and the tick (R82 to R85) -/

/-- Settles O13: `sendOp_eq` in the statement's words. -/
theorem sendEmitsTheDirtyGroups : Obligations.SendEmitsTheDirtyGroups :=
  fun now s => congrArg Host.Outcome.next (sendOp_eq now s)

/-- Settles O14: `fullSendOp_eq` in the statement's words. -/
theorem fullSendSendsTheLeftHalfAndDefersTheRight : Obligations.FullSendSendsTheLeftHalfAndDefersTheRight :=
  fun now s => congrArg Host.Outcome.next (fullSendOp_eq now s)

/-- Settles O15, step by step. -/
theorem txUpdateTakesTheFirstStepThatApplies : Obligations.TxUpdateTakesTheFirstStepThatApplies := by
  intro now s
  have hdue := partialSendDue_eq_true s.tx.dirty (el now s.tx.lastSend)
  exact ⟨fun hfloor => congrArg Host.Outcome.next (updateOp_floor hfloor),
    fun hopen hfull => congrArg Host.Outcome.next (updateOp_heartbeat hopen hfull),
    fun hopen hrecent hd => congrArg Host.Outcome.next (updateOp_partial hopen hrecent (hdue.2 hd)),
    fun hopen hrecent hd => congrArg Host.Outcome.next (updateOp_idle hopen hrecent (mt hdue.1 hd))⟩

/-- Settles O16, by the step of R82 that applies. -/
theorem txUpdateFrame : Obligations.TxUpdateFrame := by
  intro now s
  refine ⟨updateOp now s, rfl, ?_⟩
  obtain h | ⟨-, -, h⟩ | ⟨-, -, -, h⟩ := updateOp_cases now s <;> rw [h]
  · exact ⟨rfl, rfl, rfl, rfl, rfl, rfl, rfl, .inl rfl, .inl rfl, [], (List.append_nil _).symm⟩
  · rw [fullSendOp_eq]
    exact ⟨rfl, rfl, rfl, rfl, rfl, rfl, rfl, .inr rfl, .inr rfl, _, rfl⟩
  · rw [sendOp_eq]
    exact ⟨rfl, rfl, rfl, rfl, rfl, rfl, rfl, .inr rfl, .inl rfl, _, rfl⟩

/-- A tick that emits sends the frame of a header other than 0x00 (R83). -/
theorem updateOp_emits (now : Time) (s : State) :
    (updateOp now s).out = s.out ∨ ∃ h, h ≠ 0 ∧ (updateOp now s).out = s.out ++ encodeFrame h s.tx := by
  obtain h | ⟨-, -, h⟩ | ⟨-, -, hdue, h⟩ := updateOp_cases now s <;> rw [h]
  · exact .inl rfl
  · exact .inr ⟨_, or_leftMask_ne_zero s.tx.dirty, by rw [fullSendOp_eq]⟩
  · exact .inr ⟨_, dirty_ne_zero_of_partialSendDue hdue, by rw [sendOp_eq]⟩

/-- Settles O18: the bytes of the frame are as many as its header calls for. -/
theorem tickEmitsAtMostOneFrame : Obligations.TickEmitsAtMostOneFrame := by
  intro now s t ht
  cases ht
  obtain hsame | ⟨h, hne, hout⟩ := updateOp_emits now s
  · exact .inl hsame
  · exact .inr ⟨h, _, hout, hne, List.length_map _, (encodeFrame_length h s.tx).trans_le (frameLen_bounds h).2⟩

/-- The frame depends on the value registers alone. -/
theorem encodeFrame_congr {tx tx' : TxRegs} (hjoy : tx'.joy = tx.joy) (htrig : tx'.trig = tx.trig)
    (hbtn : tx'.btn = tx.btn) (h : Header) : encodeFrame h tx' = encodeFrame h tx := by
  have hbyte : byteOf tx' = byteOf tx := by
    funext u
    cases u <;> simp only [byteOf, hjoy, htrig, hbtn]
  rw [encodeFrame, encodeFrame, hbyte]

theorem fullSendOp_out (now : Time) (s : State) :
    (fullSendOp now s).out = s.out ++ encodeFrame (s.tx.dirty ||| leftMask) s.tx := by rw [fullSendOp_eq]; rfl

@[simp] theorem fullSendOp_dirty (now : Time) (s : State) : (fullSendOp now s).tx.dirty = rightMask := by
  rw [fullSendOp_eq]; rfl

@[simp] theorem fullSendOp_lastSend (now : Time) (s : State) : (fullSendOp now s).tx.lastSend = now := by
  rw [fullSendOp_eq]

@[simp] theorem fullSendOp_lastFull (now : Time) (s : State) : (fullSendOp now s).tx.lastFull = now := by
  rw [fullSendOp_eq]

@[simp] theorem fullSendOp_rx (now : Time) (s : State) : (fullSendOp now s).rx = s.rx := by
  rw [fullSendOp_eq]

/-- FULLSEND keeps the value registers, and so every frame. -/
@[simp] theorem encodeFrame_fullSendOp (now : Time) (s : State) (h : Header) :
    encodeFrame h (fullSendOp now s).tx = encodeFrame h s.tx := by
  rw [fullSendOp_eq]
  exact encodeFrame_congr rfl rfl rfl h

/-- After FULLSEND at T the first tick above the floor sends the deferred half, whose button group is dirty, unless the
heartbeat is due again (R86). -/
theorem updateOp_fullSendOp {T now : Time} (s : State) (hopen : 20 < el now T) (hrecent : el now T ≤ 800) :
    updateOp now (fullSendOp T s) = sendOp now (fullSendOp T s) := by
  have hdue : partialSendDue rightMask (el now T) = true := (partialSendDue_eq_true _ _).2 (.inl (by decide))
  exact updateOp_partial (by simpa using hopen) (by simpa using hrecent) (by simpa using hdue)

/-- Settles O19: both timestamps are T and the dirty header is RIGHT_MASK when the tick comes. -/
theorem deferredHalfGoesOutAtTheNextOpenTick : Obligations.DeferredHalfGoesOutAtTheNextOpenTick := by
  intro T now s s1 hfull hopen
  cases hfull
  refine ⟨_, rfl, fun hrecent => ?_, fun hdue => ?_⟩
  · rw [updateOp_fullSendOp s hopen hrecent]
    simp [sendOp_eq, rightMask]
  · have hbeat : updateOp now (fullSendOp T s) = fullSendOp now (fullSendOp T s) :=
      updateOp_heartbeat (by rwa [fullSendOp_lastSend]) (by rwa [fullSendOp_lastFull])
    rw [hbeat, fullSendOp_out, encodeFrame_fullSendOp, fullSendOp_dirty T]
    exact ⟨rfl, fullSendOp_dirty now _, fullSendOp_lastSend now _, fullSendOp_lastFull now _⟩

/-! ### What sends nothing (R81, R87) -/

/-- From `s` to `t` TX has emitted nothing, has kept both timestamps, and has cleared no dirty bit. -/
structure NothingSent (s t : State) : Prop where
  out : t.out = s.out
  lastSend : t.tx.lastSend = s.tx.lastSend
  lastFull : t.tx.lastFull = s.tx.lastFull
  dirty : s.tx.dirty &&& t.tx.dirty = s.tx.dirty

theorem NothingSent.of_tx_eq {s t : State} (htx : t.tx = s.tx) (hout : t.out = s.out) : NothingSent s t :=
  ⟨hout, by rw [htx], by rw [htx], by rw [htx, BitVec.and_self]⟩

theorem NothingSent.refl (s : State) : NothingSent s s := .of_tx_eq rfl rfl

theorem NothingSent.trans {s t u : State} (hst : NothingSent s t) (htu : NothingSent t u) : NothingSent s u where
  out := htu.out.trans hst.out
  lastSend := htu.lastSend.trans hst.lastSend
  lastFull := htu.lastFull.trans hst.lastFull
  dirty := by rw [← hst.dirty, BitVec.and_assoc, htu.dirty]

theorem and_or_self (x m : Header) : x &&& (x ||| m) = x := by
  ext k
  rw [BitVec.getElem_and, BitVec.getElem_or]
  cases x[k] <;> rfl

/-- Setting value registers and marking their group sends nothing. -/
theorem NothingSent.markDirty (s : State) (m : Header) (joy : PerSide (PerAxis Analog)) (trig : PerSide Analog)
    (btn : PerSide Byte) :
    NothingSent s { s with tx := Machine.markDirty m { s.tx with joy := joy, trig := trig, btn := btn } } :=
  ⟨rfl, rfl, rfl, and_or_self _ m⟩

/-- A setter sends nothing, refused or not (R81). -/
theorem exec_setter_nothingSent {i : Instr} {s t : State} (hi : isTxOp i = true) (hne : ∀ now, i ≠ .txUpdate now)
    (h : exec i s = .next t) : NothingSent s t := by
  cases i with
  | txSetJoy side a v =>
    obtain ⟨-, rfl⟩ | ⟨-, -, rfl⟩ | ⟨-, -, rfl⟩ := exec_txSetJoy_cases h
    · exact .of_tx_eq rfl rfl
    · exact .markDirty s ..
    · exact .refl _
  | txSetTrig side v =>
    obtain ⟨-, rfl⟩ | ⟨-, -, rfl⟩ | ⟨-, -, rfl⟩ := exec_txSetTrig_cases h
    · exact .of_tx_eq rfl rfl
    · exact .markDirty s ..
    · exact .refl _
  | txSetBtn side b p =>
    obtain ⟨-, rfl⟩ | ⟨-, -, rfl⟩ | ⟨-, -, rfl⟩ := exec_txSetBtn_cases h
    · exact .of_tx_eq rfl rfl
    · exact .markDirty s ..
    · exact .refl _
  | txUpdate now => exact absurd rfl (hne now)
  | _ => cases hi

/-- Settles O17, setter by setter. -/
theorem settersNeverClearADirtyBit : Obligations.SettersNeverClearADirtyBit := by
  intro i s t hi hne h
  obtain ⟨hout, hsend, hfull, hdirty⟩ := exec_setter_nothingSent hi hne h
  exact ⟨hout, hsend, hfull, hdirty⟩

/-- A command that is no host operation of TX leaves TX and its stream alone (R13, R108). -/
theorem exec_command_tx {i : Instr} {s t : State} (hi : isCommand i = true) (hne : isTxOp i ≠ true)
    (h : exec i s = .next t) : t.tx = s.tx ∧ t.out = s.out := by
  simp only [isCommand, Bool.or_eq_true] at hi
  obtain (htx | hrx) | hres := hi
  · exact absurd htx hne
  · exact exec_rxOp_frame hrx h
  · obtain ⟨w, hw⟩ := exec_of_isReservedOp hres s
    cases hw.symm.trans h
    exact ⟨rfl, rfl⟩

/-- A command is a tick or sends nothing. -/
theorem exec_command_cases {i : Instr} {s t : State} (hi : isCommand i = true) (h : exec i s = .next t) :
    (∃ now, i = .txUpdate now ∧ t = updateOp now s) ∨ NothingSent s t := by
  by_cases htick : ∃ now, i = .txUpdate now
  · obtain ⟨now, rfl⟩ := htick
    cases h
    exact .inl ⟨now, rfl, rfl⟩
  by_cases htx : isTxOp i = true
  · exact .inr (exec_setter_nothingSent htx (fun now he => htick ⟨now, he⟩) h)
  · obtain ⟨hregs, hout⟩ := exec_command_tx hi htx h
    exact .inr (.of_tx_eq hregs hout)

/-! ### Runs of commands -/

/-- What each instruction of a list keeps, a run of the list keeps. -/
theorem runAll_keeps {P : State → Prop} {ops : List Instr}
    (hkeeps : ∀ i ∈ ops, ∀ s t, exec i s = .next t → P s → P t) {s t : State} (hrun : runAll ops s = .next t)
    (hs : P s) : P t := by
  obtain ⟨hall, -⟩ := runAll_eq_next.1 hrun
  clear hrun
  induction ops generalizing s with
  | nil => cases hall; exact hs
  | cons i is ih =>
    obtain ⟨s', hs'⟩ := exec_isNext i s
    rw [execAll_cons hs'] at hall
    exact ih (fun j hj => hkeeps j (List.mem_cons_of_mem i hj)) (hkeeps i List.mem_cons_self s s' hs' hs) hall

/-- A run of commands whose ticks all come within the rate floor of the last send sends nothing. -/
theorem runAll_nothingSent {ops : List Instr} {s t : State}
    (hops : ∀ i ∈ ops, isCommand i = true ∧ ∀ now, i = .txUpdate now → el now s.tx.lastSend ≤ 20)
    (hrun : runAll ops s = .next t) : NothingSent s t := by
  refine runAll_keeps (P := NothingSent s) (fun i hi u u' h hu => hu.trans ?_) hrun (.refl s)
  obtain ⟨hcmd, hfloor⟩ := hops i hi
  obtain ⟨now, rfl, rfl⟩ | hquiet := exec_command_cases hcmd h
  · rw [updateOp_floor (hu.lastSend ▸ hfloor now rfl)]
    exact .refl u
  · exact hquiet

/-- A tick that emits ran SEND, which keeps its time (R84). -/
theorem lastSend_of_updateOp_emits {now : Time} {s : State} (h : (updateOp now s).out ≠ s.out) :
    (updateOp now s).tx.lastSend = now := by
  obtain heq | ⟨-, -, heq⟩ | ⟨-, -, -, heq⟩ := updateOp_cases now s <;> rw [heq] at h ⊢
  · exact absurd rfl h
  · rw [fullSendOp_eq]
  · rw [sendOp_eq]

/-- Settles O20: the tick that sent has kept T, so every later tick is within the floor. -/
theorem noSecondFrameWithinTheFloor : Obligations.NoSecondFrameWithinTheFloor := by
  intro T s s1 s2 ops htick hsent hops hrun
  cases htick
  rw [← lastSend_of_updateOp_emits hsent] at hops
  exact (runAll_nothingSent hops hrun).out

/-- A command that is no tick more than 800 ms after the last FULLSEND runs none (R82, R88). -/
theorem exec_command_lastFull {i : Instr} {s t : State} (hi : isCommand i = true)
    (hrecent : ∀ now, i = .txUpdate now → el now s.tx.lastFull ≤ 800) (h : exec i s = .next t) :
    t.tx.lastFull = s.tx.lastFull := by
  obtain ⟨now, rfl, rfl⟩ | hquiet := exec_command_cases hi h
  · obtain heq | ⟨-, hdue, -⟩ | ⟨-, -, -, heq⟩ := updateOp_cases now s
    · rw [heq]
    · exact absurd hdue (not_lt.2 (hrecent now rfl))
    · rw [heq, sendOp_eq]
  · exact hquiet.lastFull

/-- Settles O21: no command of the run moves `lastFull`, and the first open tick beyond 800 ms is a FULLSEND. -/
theorem heartbeatSpacing : Obligations.HeartbeatSpacing := by
  intro s s1 ops now hops hrun
  refine ⟨runAll_keeps (P := fun u => u.tx.lastFull = s.tx.lastFull) (fun i hi u u' h hu => ?_) hrun rfl,
    fun hdue hopen => ?_⟩
  · obtain ⟨hcmd, hrecent⟩ := hops i hi
    exact (exec_command_lastFull hcmd (hu ▸ hrecent) h).trans hu
  · refine ⟨fullSendOp now s1, (headerTargets (s1.tx.dirty ||| leftMask)).map (byteOf s1.tx), ?_, ?_⟩
    · exact congrArg Host.Outcome.next (updateOp_heartbeat hopen hdue)
    · exact ⟨fullSendOp_lastFull now s1, fullSendOp_dirty now s1, fullSendOp_out now s1⟩

/-! ### A changed button (R89) -/

theorem getLsbD_of_and_eq_self {x y : Header} (h : x &&& y = x) {k : Nat} (hx : x.getLsbD k = true) :
    y.getLsbD k = true := by
  rw [← h, BitVec.getLsbD_and, Bool.and_eq_true] at hx
  exact hx.2

theorem and_ne_zero_of_getLsbD {x m : Header} {k : Nat} (hx : x.getLsbD k = true) (hm : m.getLsbD k = true) :
    x &&& m ≠ 0 := by
  intro h0
  have hk : (x &&& m).getLsbD k = true := by simp [hx, hm]
  simp [h0] at hk

theorem getLsbD_btnBit (side : Side) : (btnBit side).getLsbD (groupBit (groupOf (buttonTarget side))) = true := by
  cases side <;> rfl

theorem getLsbD_nonanalogMask (side : Side) :
    nonanalogMask.getLsbD (groupBit (groupOf (buttonTarget side))) = true := by
  cases side <;> rfl

/-- TX_SET_BTN that changed its side's byte has marked the side's group, and has sent nothing (R80, R81). -/
theorem exec_txSetBtn_changed {side : Side} {b : ButtonId} {p : Bool} {s t : State}
    (h : exec (.txSetBtn side b p) s = .next t) (hne : t.tx.btn.get side ≠ s.tx.btn.get side) :
    NothingSent s t ∧ t.tx.dirty.getLsbD (groupBit (groupOf (buttonTarget side))) = true := by
  refine ⟨exec_setter_nothingSent rfl (by simp) h, ?_⟩
  obtain ⟨-, rfl⟩ | ⟨-, -, rfl⟩ | ⟨-, -, rfl⟩ := exec_txSetBtn_cases h
  · exact absurd rfl hne
  · simp [getLsbD_btnBit]
  · exact absurd rfl hne

/-- A tick above the floor that finds a button group dirty sends a frame with every dirty group (R82). -/
theorem updateOp_sends_dirty {now : Time} {s : State} (hopen : 20 < el now s.tx.lastSend)
    (hbtn : s.tx.dirty &&& nonanalogMask ≠ 0) :
    ∃ h, s.tx.dirty &&& h = s.tx.dirty ∧ (updateOp now s).out = s.out ++ encodeFrame h s.tx := by
  by_cases hfull : 800 < el now s.tx.lastFull
  · exact ⟨_, and_or_self s.tx.dirty 0x15, by rw [updateOp_heartbeat hopen hfull, fullSendOp_eq]⟩
  · have hdue := (partialSendDue_eq_true s.tx.dirty (el now s.tx.lastSend)).2 (.inl hbtn)
    exact ⟨_, BitVec.and_self, by rw [updateOp_partial hopen (not_lt.1 hfull) hdue, sendOp_eq]⟩

/-- The frame of a header that names a target carries the target's byte. -/
theorem encodeFrame_eq_append_of_mem {h : Header} {u : Target} (hu : u ∈ headerTargets h) (tx : TxRegs) :
    ∃ before after, encodeFrame h tx = h :: (before ++ byteOf tx u :: after) := by
  obtain ⟨before, after, hsplit⟩ := List.append_of_mem hu
  exact ⟨before.map (byteOf tx), after.map (byteOf tx), by simp [encodeFrame, hsplit]⟩

/-- Settles O22: the side's dirty bit stays set until the tick, which finds it and sends its group. -/
theorem changedButtonGoesOutAtTheNextOpenTick : Obligations.ChangedButtonGoesOutAtTheNextOpenTick := by
  intro side b p ops now s s1 s2 hset hchanged hops hrun hopen
  obtain ⟨hquiet1, hbit1⟩ := exec_txSetBtn_changed hset hchanged
  have hquiet2 : NothingSent s1 s2 := runAll_nothingSent (hquiet1.lastSend ▸ hops) hrun
  obtain ⟨hout, hsend, -, -⟩ := hquiet1.trans hquiet2
  have hbit2 := getLsbD_of_and_eq_self hquiet2.dirty hbit1
  obtain ⟨h, hall, htick⟩ := updateOp_sends_dirty (s := s2) (hsend ▸ hopen)
    (and_ne_zero_of_getLsbD hbit2 (getLsbD_nonanalogMask side))
  have hbit := getLsbD_of_and_eq_self hall hbit2
  obtain ⟨before, after, hframe⟩ := encodeFrame_eq_append_of_mem ((mem_headerTargets h _).2 hbit) s2.tx
  rw [byteOf_buttonTarget] at hframe
  refine ⟨hout, updateOp now s2, h, before, after, rfl, hframe ▸ htick, ?_, hframe⟩
  rw [← btnBit_eq]
  exact and_ne_zero_of_getLsbD hbit (getLsbD_btnBit side)

/-! ### The dirty header's history (R90) -/

theorem DirtyHistory.after_cons {i : Instr} {s s' : State} (h : exec i s = .next s') (is : List Instr)
    (g : DirtyHistory) : DirtyHistory.after (i :: is) s g = DirtyHistory.after is s' (g.next i s s') := by
  simp only [DirtyHistory.after, h]

/-- The groups that a history says are dirty, S | F. -/
def DirtyHistory.dirty (g : DirtyHistory) : Header := g.changed ||| g.deferred

/-- One more changed group in a history. -/
theorem DirtyHistory.dirty_changed (g : DirtyHistory) (m : Header) :
    DirtyHistory.dirty { g with changed := g.changed ||| m } = g.dirty ||| m := by
  simp only [dirty, BitVec.or_assoc, BitVec.or_comm m]

theorem ne_of_three_thousandths_lt {v w : Analog} (h : 3 / 1000 < |v - w|) : v ≠ w := by
  rintro rfl
  norm_num at h

/-- A host operation of TX moves the dirty header as its history says. -/
theorem DirtyHistory.next_dirty {i : Instr} {s t : State} (hi : isTxOp i = true) (h : exec i s = .next t)
    {g : DirtyHistory} (hg : s.tx.dirty = g.dirty) : t.tx.dirty = (g.next i s t).dirty := by
  cases i with
  | txSetJoy side a v =>
    obtain ⟨-, rfl⟩ | ⟨-, hc, rfl⟩ | ⟨-, -, rfl⟩ := exec_txSetJoy_cases h
    · simpa [next] using hg
    · simp [next, ne_of_three_thousandths_lt hc, dirty_changed, hg]
    · simpa [next] using hg
  | txSetTrig side v =>
    obtain ⟨-, rfl⟩ | ⟨-, hc, rfl⟩ | ⟨-, -, rfl⟩ := exec_txSetTrig_cases h
    · simpa [next] using hg
    · simp [next, ne_of_three_thousandths_lt hc, dirty_changed, hg]
    · simpa [next] using hg
  | txSetBtn side b p =>
    obtain ⟨-, rfl⟩ | ⟨-, hc, rfl⟩ | ⟨-, -, rfl⟩ := exec_txSetBtn_cases h
    · simpa [next] using hg
    · simp [next, hc, dirty_changed, hg]
    · simpa [next] using hg
  | txUpdate now =>
    cases h
    obtain h | ⟨-, hdue, h⟩ | ⟨-, hrecent, -, h⟩ := updateOp_cases now s <;> rw [h]
    · simpa [next] using hg
    · simp [next, fullSendOp_eq, encodeFrame, Config.maxInterval, hdue, dirty, rightMask]
    · simp [next, sendOp_eq, encodeFrame, Config.maxInterval, not_lt.2 hrecent, dirty]
  | _ => cases hi

/-- Along a run of TX operations the dirty header is as the history says. -/
theorem DirtyHistory.after_dirty {ops : List Instr} (hops : ∀ i ∈ ops, isTxOp i = true) {s t : State}
    (hrun : execAll ops s = .next t) {g : DirtyHistory} (hg : s.tx.dirty = g.dirty) :
    t.tx.dirty = (DirtyHistory.after ops s g).dirty := by
  induction ops generalizing s g with
  | nil => cases hrun; exact hg
  | cons i is ih =>
    obtain ⟨s', hs'⟩ := exec_isNext i s
    rw [execAll_cons hs'] at hrun
    rw [after_cons hs']
    exact ih (fun j hj => hops j (List.mem_cons_of_mem i hj)) hrun
      (next_dirty (hops i List.mem_cons_self) hs' hg)

/-- Settles O23: the empty history says that nothing is dirty, as at the start. -/
theorem dirtyIsWhatChangedAndWhatIsDeferred : Obligations.DirtyIsWhatChangedAndWhatIsDeferred := by
  intro ops s t hs hops hrun
  obtain ⟨hall, -⟩ := runAll_eq_next.1 hrun
  exact DirtyHistory.after_dirty hops hall hs

/-! ### The stored analog values (R90) -/

/-- Of the commands only TX_SET_JOY of an axis moves the axis. -/
theorem exec_command_joy {i : Instr} {s t : State} (hi : isCommand i = true) {side : Side} {a : Axis}
    (hne : ∀ v, i ≠ .txSetJoy side a v) (h : exec i s = .next t) :
    joyGet t.tx.joy side a = joyGet s.tx.joy side a := by
  by_cases htx : isTxOp i = true
  · cases i with
    | txSetJoy side' a' v =>
      obtain ⟨-, rfl⟩ | ⟨-, -, rfl⟩ | ⟨-, -, rfl⟩ := exec_txSetJoy_cases h
      · rfl
      · refine joyGet_joySet_other _ (fun he => ?_) v
        cases he
        exact hne v rfl
      · rfl
    | txSetTrig side' v => obtain ⟨-, rfl⟩ | ⟨-, -, rfl⟩ | ⟨-, -, rfl⟩ := exec_txSetTrig_cases h <;> rfl
    | txSetBtn side' b p => obtain ⟨-, rfl⟩ | ⟨-, -, rfl⟩ | ⟨-, -, rfl⟩ := exec_txSetBtn_cases h <;> rfl
    | txUpdate now =>
      obtain ⟨t', ht', hjoy, -⟩ := txUpdateFrame now s
      cases ht'.symm.trans h
      rw [hjoy]
    | _ => cases htx
  · obtain ⟨hregs, -⟩ := exec_command_tx hi htx h
    rw [hregs]

/-- Of the commands only TX_SET_TRIG of a trigger moves the trigger. -/
theorem exec_command_trig {i : Instr} {s t : State} (hi : isCommand i = true) {side : Side}
    (hne : ∀ v, i ≠ .txSetTrig side v) (h : exec i s = .next t) : t.tx.trig.get side = s.tx.trig.get side := by
  by_cases htx : isTxOp i = true
  · cases i with
    | txSetJoy side' a v => obtain ⟨-, rfl⟩ | ⟨-, -, rfl⟩ | ⟨-, -, rfl⟩ := exec_txSetJoy_cases h <;> rfl
    | txSetTrig side' v =>
      obtain ⟨-, rfl⟩ | ⟨-, -, rfl⟩ | ⟨-, -, rfl⟩ := exec_txSetTrig_cases h
      · rfl
      · refine PerSide.get_set_other _ (fun he => ?_) v
        cases he
        exact hne v rfl
      · rfl
    | txSetBtn side' b p => obtain ⟨-, rfl⟩ | ⟨-, -, rfl⟩ | ⟨-, -, rfl⟩ := exec_txSetBtn_cases h <;> rfl
    | txUpdate now =>
      obtain ⟨t', ht', -, htrig, -⟩ := txUpdateFrame now s
      cases ht'.symm.trans h
      rw [htrig]
    | _ => cases htx
  · obtain ⟨hregs, -⟩ := exec_command_tx hi htx h
    rw [hregs]

/-- TX_SET_JOY inside its domain leaves the axis within 3/1000 of V: stored, or near enough not to be (R78). -/
theorem exec_txSetJoy_near {side : Side} {a : Axis} {v : Analog} (hlow : -1 ≤ v) (hhigh : v ≤ 1) {s t : State}
    (h : exec (.txSetJoy side a v) s = .next t) : |v - joyGet t.tx.joy side a| ≤ 3 / 1000 := by
  obtain ⟨hv, -⟩ | ⟨-, -, rfl⟩ | ⟨-, hnear, rfl⟩ := exec_txSetJoy_cases h
  · exact absurd hv (not_or.2 ⟨not_lt.2 hlow, not_lt.2 hhigh⟩)
  · norm_num
  · exact hnear

/-- TX_SET_TRIG inside its domain leaves the trigger within 3/1000 of V (R79). -/
theorem exec_txSetTrig_near {side : Side} {v : Analog} (hlow : 0 ≤ v) (hhigh : v ≤ 1) {s t : State}
    (h : exec (.txSetTrig side v) s = .next t) : |v - t.tx.trig.get side| ≤ 3 / 1000 := by
  obtain ⟨hv, -⟩ | ⟨-, -, rfl⟩ | ⟨-, hnear, rfl⟩ := exec_txSetTrig_cases h
  · exact absurd hv (not_or.2 ⟨not_lt.2 hlow, not_lt.2 hhigh⟩)
  · norm_num
  · exact hnear

/-- Settles O24: the setter leaves the register near V, and no command of the run moves it. -/
theorem storedAnalogIsWithinEpsilonOfTheLastGiven : Obligations.StoredAnalogIsWithinEpsilonOfTheLastGiven := by
  intro s s1 s2 ops hops
  constructor
  · intro side a v hlow hhigh hset hnever hrun
    refine runAll_keeps (P := fun u => |v - joyGet u.tx.joy side a| ≤ 3 / 1000) (fun i hi u u' h hu => ?_) hrun
      (exec_txSetJoy_near hlow hhigh hset)
    rwa [exec_command_joy (hops i hi) (fun v' he => hnever v' (he ▸ hi)) h]
  · intro side v hlow hhigh hset hnever hrun
    refine runAll_keeps (P := fun u => |v - u.tx.trig.get side| ≤ 3 / 1000) (fun i hi u u' h hu => ?_) hrun
      (exec_txSetTrig_near hlow hhigh hset)
    rwa [exec_command_trig (hops i hi) (fun v' he => hnever v' (he ▸ hi)) h]

/-! ### The heartbeat on RX (R86, R95) -/

/-- A heartbeat and the deferred half name every target between them (R76). -/
theorem mem_headerTargets_halves (d : Header) (u : Target) :
    u ∈ headerTargets (d ||| leftMask) ∨ u ∈ headerTargets rightMask := by
  simp only [mem_headerTargets, BitVec.getLsbD_or, Bool.or_eq_true]
  have hhalf : leftMask.getLsbD (groupBit (groupOf u)) = true ∨ rightMask.getLsbD (groupBit (groupOf u)) = true := by
    cases u <;> decide
  exact hhalf.imp_left .inr

/-- Settles O60: each frame is parsed from its header on and fills its half, and what the second does not name the first
has filled. -/
theorem heartbeatRefreshesEveryField : Obligations.HeartbeatRefreshesEveryField := by
  intro T now at1 at2 s s1 s2 f1 f2 hfull hout1 hopen hrecent htick hout2 hgap1 hgap2
  cases hfull
  cases htick
  cases List.append_cancel_left (hout1.symm.trans (fullSendOp_out T s))
  have hsecond : f2 = encodeFrame rightMask s.tx := by
    rw [updateOp_fullSendOp s hopen hrecent] at hout2
    simpa [sendOp_eq] using hout2.symm
  have hrx : (updateOp now (fullSendOp T s)).rx = s.rx := by
    rw [(updateOp_frame now _).1, fullSendOp_rx]
  have hlast : (pollRegs at1 (encodeFrame (s.tx.dirty ||| leftMask) s.tx) s.rx).lastReceive = at1 := by
    rw [pollRegs_of_ne_nil at1 (bytes := encodeFrame _ s.tx) (List.cons_ne_nil _ _)]
  refine ⟨_, _, rfl, rfl, fun u => ?_⟩
  rw [hsecond, pollOp_rx, pollOp_rx, hrx, fieldAt_pollRegs_encodeFrame (.inr (by rwa [hlast])),
    fieldAt_pollRegs_encodeFrame (.inr hgap1)]
  obtain hfirst | hdeferred := mem_headerTargets_halves s.tx.dirty u
  · rw [if_pos hfirst, ite_self]
  · rw [if_pos hdeferred]

end Sys2Proof.Machine
end

section
/-! PROOFS. The statements of 42_rx.md: what the two steps of the parser, a poll and the accessors do, what a wire
element has in common with a poll, and what a click read reports. For the last, the click bit and the button byte of a
side are followed along the button bytes that are stored. -/

namespace Sys2Proof.Machine

/-! ### The parser (R93 to R96) -/

theorem parseByte_eq (rx : RxRegs) (x : Byte) :
    parseByte rx x = if rx.curByte = rx.numBytes then headerStep x rx else bodyStep x rx := by
  simp only [parseByte, expectingHeader, beq_iff_eq]

/-- Settles O32: the entries by `getElem_writeTargets`; HeaderStep writes no other register than the parser's. -/
theorem headerStepLoadsTheTargets : Obligations.HeaderStepLoadsTheTargets := by
  intro x s
  refine ⟨_, rfl, fun k hk => ?_, headerStep_numBytes_toNat x s.rx, rfl, rfl, rfl, rfl, rfl, rfl, sameButRx_setRx s _⟩
  simp [getElem_writeTargets _ _ k _ hk]

/-- Settles O33: what `fieldAt_bodyStep` says of the current target, which is the list's entry. -/
theorem bodyStepRoutesTheByte : Obligations.BodyStepRoutesTheByte := by
  intro x s hcur
  have hfield := fieldAt_bodyStep x s.rx
  rw [currentTarget_eq s.rx hcur] at hfield
  refine ⟨_, rfl, (hfield _).trans (if_pos rfl), fun u hu => (hfield u).trans (if_neg hu), ?_, ?_, ?_, ?_,
    sameButRx_setRx s _⟩
  · simp only [bodyStep, advance_curByte, routeByte_curByte]
    bv_omega
  · simp [bodyStep]
  · simp [bodyStep]
  · simp [bodyStep]

/-- A data byte joins its rising edges to the click mask of a side if it is the side's button byte (R96). -/
theorem bodyStep_click (side : Side) (x : Byte) (rx : RxRegs) :
    (bodyStep x rx).click.get side =
      if currentTarget rx = buttonTarget side then rx.click.get side ||| rise (rx.btn.get side) x
      else rx.click.get side := by
  unfold bodyStep
  cases currentTarget rx <;> cases side <;> rfl

/-- A data byte is stored as the button byte of a side if it is the side's button byte (R95, R96). -/
theorem bodyStep_btn (side : Side) (x : Byte) (rx : RxRegs) :
    (bodyStep x rx).btn.get side = if currentTarget rx = buttonTarget side then x else rx.btn.get side := by
  simp only [← fieldAt_buttonTarget, fieldAt_bodyStep, eq_comm]

/-- Settles O34, side by side. -/
theorem buttonBytesAddTheirRisingEdges : Obligations.ButtonBytesAddTheirRisingEdges := by
  intro x s hcur
  rw [← currentTarget_eq s.rx hcur]
  exact ⟨_, rfl, bodyStep_click .left x s.rx, bodyStep_click .right x s.rx, bodyStep_btn .left x s.rx,
    bodyStep_btn .right x s.rx⟩

/-! ### The poll (R92, R93, R98, R105) -/

/-- Settles O31: `pollRegs_of_ne_nil`, with the parser's place as a comparison of the counters. -/
theorem rxPollParsesEveryByte : Obligations.RxPollParsesEveryByte := by
  refine fun now bytes s => ⟨?_, fun hne => ?_⟩
  · rintro rfl
    simp [exec, execRxPoll, pollOp]
  · simp only [exec, execRxPoll, pollOp, pollRegs_of_ne_nil now hne, parseBytes, ← parseByte_eq]
    rfl

/-- A header is parsed alike whatever the counters were before a resync (R94). -/
theorem parseByte_resync (rx : RxRegs) (x : Byte) :
    parseByte { rx with numBytes := 0, curByte := 0 } x = headerStep x rx := rfl

/-- A poll with bytes after a gap above 2 ms parses the first as a header (R92, R105). -/
theorem pollRegs_of_long_gap {now : Time} {rx : RxRegs} (hgap : 2 < el now rx.lastReceive) (x : Byte)
    (bytes : List Byte) :
    pollRegs now (x :: bytes) rx = { parseBytes bytes (headerStep x rx) with lastReceive := now } := by
  rw [pollRegs_of_ne_nil now (List.cons_ne_nil x bytes), if_pos hgap, parseBytes_cons, parseByte_resync]

/-- Settles O41: HeaderStep writes both counters, so what they were does not matter. -/
theorem resyncForgetsThePacketInProgress : Obligations.ResyncForgetsThePacketInProgress := by
  intro now x bytes s n c hgap
  have hpoll := pollRegs_of_long_gap hgap x bytes
  refine ⟨?_, _, _, rfl, rfl, hpoll⟩
  have hother := pollRegs_of_long_gap (rx := { s.rx with numBytes := n, curByte := c }) hgap x bytes
  simp only [exec, execRxPoll, pollOp, hpoll, hother]
  rfl

/-- The parser does not read the time (R93 to R96). -/
theorem parseByte_setLastReceive (t : Time) (rx : RxRegs) (x : Byte) :
    parseByte { rx with lastReceive := t } x = { parseByte rx x with lastReceive := t } := by
  have hroute : ∀ u, routeByte u x { rx with lastReceive := t } = { routeByte u x rx with lastReceive := t } := by
    intro u
    cases u <;> rfl
  rw [parseByte_eq, parseByte_eq]
  split
  · rfl
  · exact congrArg advance (hroute (currentTarget rx))

theorem parseBytes_setLastReceive (t : Time) (bytes : List Byte) (rx : RxRegs) :
    parseBytes bytes { rx with lastReceive := t } = { parseBytes bytes rx with lastReceive := t } := by
  induction bytes generalizing rx with
  | nil => rfl
  | cons x bytes ih => rw [parseBytes_cons, parseByte_setLastReceive, ih, parseBytes_cons]

/-- Settles O42: the second poll does not resync, and the parser does not read the time that the first kept. -/
theorem packetSplitOverPollsParsesAsOne : Obligations.PacketSplitOverPollsParsesAsOne := by
  intro now1 now2 a b s ha hb hgap
  refine ⟨_, _, _, rfl, rfl, rfl, ?_⟩
  have hshort : ¬ 2 < el now2 now1 := not_lt.2 hgap
  simp only [pollOp, pollRegs_of_ne_nil _ ha, pollRegs_of_ne_nil _ hb,
    pollRegs_of_ne_nil _ (List.append_ne_nil_of_left_ne_nil ha b), if_neg hshort, parseBytes_setLastReceive,
    parseBytes_append]

/-! ### The connection test (R99) -/

/-- A poll that brings bytes keeps its time (R93). -/
theorem pollRegs_lastReceive (now : Time) {bytes : List Byte} (hne : bytes ≠ []) (rx : RxRegs) :
    (pollRegs now bytes rx).lastReceive = now := by
  rw [pollRegs_of_ne_nil now hne]

/-- Settles O35: after a poll with bytes no time has elapsed, and one without bytes leaves `lastReceive`. -/
theorem rxConnectedPollsThenCompares : Obligations.RxConnectedPollsThenCompares := by
  refine fun now bytes s => ⟨pollOp now bytes s, linkUp now (pollRegs now bytes s.rx).lastReceive, rfl, rfl, rfl,
    fun hne => ?_, ?_⟩
  · rw [pollRegs_lastReceive now hne, linkUp_self]
  · rintro rfl
    rw [pollRegs_nil, linkUp_eq_false]
    rfl

/-! ### The accessors (R91, R100 to R103) -/

/-- Settles O36: `decJ_eq` at the axis. -/
theorem rxGetJoyReturnsTheDecodedAxis : Obligations.RxGetJoyReturnsTheDecodedAxis := by
  intro side a s
  rw [← decJ_eq]
  rfl

/-- Settles O37: DecT is the quotient as it stands. -/
theorem rxGetTrigReturnsTheDecodedTrigger : Obligations.RxGetTrigReturnsTheDecodedTrigger :=
  fun _ _ => rfl

/-- Settles O38: RX_GET_BTN does not refuse a button that is not reserved. -/
theorem rxGetBtnReturnsTheLevel : Obligations.RxGetBtnReturnsTheLevel := by
  intro side b s hb
  obtain ⟨t, ht⟩ := exec_isNext (.rxGetBtn side b) s
  obtain ⟨hlt, -⟩ | ⟨-, rfl⟩ := exec_rxGetBtn_cases ht
  · exact absurd hlt (not_lt.2 hb)
  · exact ht

/-- Clearing bit b of one side's mask leaves every other bit of both (R103). -/
theorem getLsbD_clearClick (click : PerSide Byte) (side side' : Side) (b : ButtonId) (k : Nat) :
    ((click.set side (clearBit (click.get side) b)).get side').getLsbD k =
      if (side', k) = (side, b.toNat) then false else (click.get side').getLsbD k := by
  by_cases hside : side' = side
  · subst hside
    by_cases hk : k = b.toNat <;> simp [getLsbD_clearBit, hk]
  · simp [PerSide.get_set_other _ hside, hside]

/-- Settles O39, by `getLsbD_clearClick` at the bit and at another. -/
theorem rxGetClickReadsAndClearsOneBit : Obligations.RxGetClickReadsAndClearsOneBit := by
  intro side b s hb
  obtain ⟨t, ht⟩ := exec_isNext (.rxGetClick side b) s
  refine ⟨t, ht, ?_⟩
  obtain ⟨hlt, -⟩ | ⟨-, rfl⟩ := exec_rxGetClick_cases ht
  · exact absurd hlt (not_lt.2 hb)
  · have hbit := getLsbD_clearClick s.rx.click side side b
    exact ⟨rfl, (hbit b.toNat).trans (if_pos rfl), fun k hk => (hbit k).trans (if_neg fun he => hk (Prod.mk.inj he).2),
      fun _ hside => PerSide.get_set_other _ hside _, rfl, rfl, rfl, rfl, rfl⟩

/-- Settles O54, accessor by accessor. -/
theorem accessorsNeverParse : Obligations.AccessorsNeverParse := by
  intro i s t hi hpoll hconnected h
  cases i with
  | rxPoll now bytes => exact absurd rfl (hpoll now bytes)
  | rxConnected now bytes => exact absurd rfl (hconnected now bytes)
  | rxGetJoy side a => cases h; exact ⟨rfl, fun _ => rfl⟩
  | rxGetTrig side => cases h; exact ⟨rfl, fun _ => rfl⟩
  | rxGetBtn side b => obtain ⟨-, rfl⟩ | ⟨-, rfl⟩ := exec_rxGetBtn_cases h <;> exact ⟨rfl, fun _ => rfl⟩
  | rxGetClick side b =>
    refine ⟨?_, fun hclick => absurd rfl (hclick side b)⟩
    obtain ⟨-, rfl⟩ | ⟨-, rfl⟩ := exec_rxGetClick_cases h <;> rfl
  | _ => cases hi

/-! ### Wire elements (R93, R97) -/

/-- At the instant of the last receive a poll neither resyncs nor moves the time (R92, R93). -/
theorem pollRegs_at_lastReceive (bytes : List Byte) (rx : RxRegs) :
    pollRegs rx.lastReceive bytes rx = parseBytes bytes rx := by
  have htime : { parseBytes bytes rx with lastReceive := rx.lastReceive } = parseBytes bytes rx := by
    rw [← parseBytes_lastReceive bytes rx]
  by_cases hne : bytes = []
  · rw [hne, pollRegs_nil, parseBytes_nil]
  · rw [pollRegs_of_ne_nil _ hne, el_self, if_neg (by decide), htime]

/-- Settles O43: both sides come to the parse of the element's bytes. -/
theorem wireElementIsAPollAtTheLastReceive : Obligations.WireElementIsAPollAtTheLastReceive := by
  intro i bytes s henc
  refine ⟨_, exec_of_encodeWire henc s, ?_⟩
  simp only [exec, execRxPoll, pollOp, pollRegs_at_lastReceive, consumeOp]

/-- An element of one wire byte is parsed as any byte (R93). -/
theorem exec_of_encodeWire_byte {i : Instr} {x : Byte} (henc : encodeWire i = some [x]) (s : State) :
    exec i s = .next { s with rx := if s.rx.curByte = s.rx.numBytes then headerStep x s.rx else bodyStep x s.rx } := by
  rw [exec_of_encodeWire henc, consumeOp, parseBytes_cons, parseBytes_nil, parseByte_eq]

/-- Settles O45: the four elements carry the same byte. -/
theorem wireByteIsTakenByTheParserState : Obligations.WireByteIsTakenByTheParserState := by
  intro x s i hi
  have henc : encodeWire i = some [x] := by obtain rfl | rfl | rfl | rfl := hi <;> rfl
  rw [exec_of_encodeWire_byte henc]
  exact ⟨fun he => by rw [if_pos he]; rfl, fun hne => by rw [if_neg hne]; rfl⟩

/-- A header without group bits names no target (R69, R97). -/
theorem headerTargets_of_no_group {h : Header} (hzero : h &&& 0x3F = 0) : headerTargets h = [] := by
  refine List.eq_nil_iff_forall_not_mem.2 fun u hu => ?_
  have hgroup : (0x3F : Header).getLsbD (groupBit (groupOf u)) = true := by cases u <;> rfl
  exact and_ne_zero_of_getLsbD ((mem_headerTargets h u).1 hu) hgroup hzero

/-- Settles O46: HeaderStep of a header that names no target writes the counters alone. -/
theorem headerWithoutGroupsIsAWholePacket : Obligations.HeaderWithoutGroupsIsAWholePacket := by
  intro h s hs hzero
  rw [exec_of_encodeWire_byte (x := h) rfl, if_pos hs, headerStep, headerLen, headerTargets_of_no_group hzero]
  rfl

/-! ### A click read (R96, R103, R104) -/

/-- From `rx` to `rx'` the button bytes `xs` of a side are stored: the last one is held, and click bit `b` is what it
was or has risen along them. -/
structure StoresButtons (side : Side) (b : ButtonId) (rx : RxRegs) (xs : List Byte) (rx' : RxRegs) : Prop where
  btn : rx'.btn.get side = xs.getLastD (rx.btn.get side)
  click : (rx'.click.get side).getLsbD b.toNat =
    ((rx.click.get side).getLsbD b.toNat || risesIn b (rx.btn.get side) xs)

section StoresButtons
variable {side : Side} {b : ButtonId} {rx rx' rx'' : RxRegs}

theorem StoresButtons.nil (hbtn : rx'.btn.get side = rx.btn.get side)
    (hclick : (rx'.click.get side).getLsbD b.toNat = (rx.click.get side).getLsbD b.toNat) :
    StoresButtons side b rx [] rx' :=
  ⟨hbtn, by rw [hclick, risesIn, Bool.or_false]⟩

theorem StoresButtons.refl (side : Side) (b : ButtonId) (rx : RxRegs) : StoresButtons side b rx [] rx := .nil rfl rfl

theorem StoresButtons.append {xs ys : List Byte} (hx : StoresButtons side b rx xs rx')
    (hy : StoresButtons side b rx' ys rx'') : StoresButtons side b rx (xs ++ ys) rx'' where
  btn := by rw [hy.btn, hx.btn, List.getLastD_eq_getLast?, List.getLastD_eq_getLast?, List.getLastD_eq_getLast?,
    List.getLast?_append, Option.getD_or]
  click := by rw [hy.click, hx.click, hx.btn, risesIn_append, Bool.or_assoc]

/-- A byte stored over the old one rises at bit `b` exactly when `Rise` of the two has the bit (R74). -/
theorem getLsbD_rise (old x : Byte) (b : ButtonId) : (rise old x).getLsbD b.toNat = risesIn b old [x] := by
  have hb : b.toNat < 8 := b.isLt
  simp [rise, risesIn, hb, Bool.and_comm]

/-- A data byte stores itself if it is one for the side's buttons, and nothing otherwise (R95, R96). -/
theorem storesButtons_bodyStep (side : Side) (b : ButtonId) (rx : RxRegs) (x : Byte) :
    StoresButtons side b rx (if currentTarget rx = buttonTarget side then [x] else []) (bodyStep x rx) := by
  have hbtn := bodyStep_btn side x rx
  have hclick := bodyStep_click side x rx
  split
  next htarget =>
    rw [if_pos htarget] at hbtn hclick
    exact ⟨hbtn, by rw [hclick, BitVec.getLsbD_or, getLsbD_rise]⟩
  next htarget =>
    rw [if_neg htarget] at hbtn hclick
    exact .nil hbtn (by rw [hclick])

/-- A byte of a poll stores itself if RX takes it as a data byte for the side's buttons, and nothing otherwise. -/
theorem storesButtons_parseByte (side : Side) (b : ButtonId) (rx : RxRegs) (x : Byte) :
    StoresButtons side b rx
      (if expectingHeader rx = false ∧ currentTarget rx = buttonTarget side then [x] else []) (parseByte rx x) := by
  unfold parseByte
  cases expectingHeader rx with
  | true => exact .nil rfl rfl
  | false => simpa using storesButtons_bodyStep side b rx x

theorem storesButtons_parseBytes (side : Side) (b : ButtonId) (bytes : List Byte) (rx : RxRegs) :
    StoresButtons side b rx (storedButtons side bytes rx) (parseBytes bytes rx) := by
  induction bytes generalizing rx with
  | nil => exact .refl side b rx
  | cons x bytes ih => exact (storesButtons_parseByte side b rx x).append (ih _)

/-- A poll stores the button bytes that the parser takes after the resync (R92, R93). -/
theorem storesButtons_pollRegs (side : Side) (b : ButtonId) (now : Time) (bytes : List Byte) (rx : RxRegs) :
    StoresButtons side b rx (storedButtons side bytes (timeoutResync now bytes rx)) (pollRegs now bytes rx) := by
  have hresync : StoresButtons side b rx [] (timeoutResync now bytes rx) := by
    unfold timeoutResync
    split <;> exact .nil rfl rfl
  have hstamp (rx' : RxRegs) : StoresButtons side b rx' [] (stampReceive now bytes rx') := by
    unfold stampReceive
    split <;> exact .nil rfl rfl
  simpa [pollRegs] using (hresync.append (storesButtons_parseBytes side b bytes _)).append (hstamp _)

end StoresButtons

/-- A command that is no host operation of RX leaves RX alone (R13, R108). -/
theorem exec_command_rx {i : Instr} {s t : State} (hi : isCommand i = true) (hne : isRxOp i ≠ true)
    (h : exec i s = .next t) : t.rx = s.rx := by
  simp only [isCommand, Bool.or_eq_true] at hi
  obtain (htx | hrx) | hres := hi
  · exact (exec_txOp_frame htx h).1
  · exact absurd hrx hne
  · obtain ⟨w, hw⟩ := exec_of_isReservedOp hres s
    cases hw.symm.trans h
    rfl

theorem storedBy_of_not_isRxOp {i : Instr} (hi : isRxOp i ≠ true) (side : Side) (rx : RxRegs) :
    storedBy side i rx = [] := by
  cases i with
  | rxPoll now bytes => exact absurd rfl hi
  | rxConnected now bytes => exact absurd rfl hi
  | _ => rfl

/-- RX_GET_CLICK of another bit or side stores no button byte and leaves the bit (R103). -/
theorem exec_rxGetClick_storesButtons {side side' : Side} {b b' : ButtonId} (hne : (side, b) ≠ (side', b'))
    {s t : State} (h : exec (.rxGetClick side' b') s = .next t) : StoresButtons side b s.rx [] t.rx := by
  obtain ⟨-, rfl⟩ | ⟨-, rfl⟩ := exec_rxGetClick_cases h
  · exact .refl side b s.rx
  · have hother : (side, b.toNat) ≠ (side', b'.toNat) := by simpa [BitVec.toNat_inj] using hne
    exact .nil rfl ((getLsbD_clearClick s.rx.click side' side b' b.toNat).trans (if_neg hother))

/-- A command that does not read the click bit stores its button bytes and nothing else (R91, R93, R99). -/
theorem exec_command_storesButtons {side : Side} {b : ButtonId} {i : Instr} {s t : State} (hi : isCommand i = true)
    (hne : i ≠ .rxGetClick side b) (h : exec i s = .next t) :
    StoresButtons side b s.rx (storedBy side i s.rx) t.rx := by
  by_cases hrx : isRxOp i = true
  · cases i with
    | rxPoll now bytes => cases h; exact storesButtons_pollRegs side b now bytes s.rx
    | rxConnected now bytes => cases h; exact storesButtons_pollRegs side b now bytes s.rx
    | rxGetJoy side' a => cases h; exact .refl side b s.rx
    | rxGetTrig side' => cases h; exact .refl side b s.rx
    | rxGetBtn side' b' => obtain ⟨-, rfl⟩ | ⟨-, rfl⟩ := exec_rxGetBtn_cases h <;> exact .refl side b s.rx
    | rxGetClick side' b' => exact exec_rxGetClick_storesButtons (fun he => by cases he; exact hne rfl) h
    | _ => cases hrx
  · rw [exec_command_rx hi hrx h, storedBy_of_not_isRxOp hrx]
    exact .refl side b s.rx

/-- Along commands that do not read the click bit, the button bytes that they store are stored. -/
theorem execAll_storesButtons {side : Side} {b : ButtonId} {ops : List Instr}
    (hops : ∀ i ∈ ops, isCommand i = true ∧ i ≠ .rxGetClick side b) {s t : State} (hrun : execAll ops s = .next t) :
    StoresButtons side b s.rx (storedAlong side ops s) t.rx := by
  induction ops generalizing s with
  | nil => cases hrun; exact .refl ..
  | cons i is ih =>
    obtain ⟨s', hs'⟩ := exec_isNext i s
    obtain ⟨hcmd, hne⟩ := hops i List.mem_cons_self
    rw [execAll_cons hs'] at hrun
    rw [storedAlong_cons hs']
    exact (exec_command_storesButtons hcmd hne hs').append (ih (fun j hj => hops j (List.mem_cons_of_mem i hj)) hrun)

/-- Settles O40: a read and a reset clear the bit, and from there it is set exactly where it has risen along the stored
bytes. -/
theorem clickReadReportsARisingEdgeSinceTheLastRead : Obligations.ClickReadReportsARisingEdgeSinceTheLastRead := by
  intro side b hb
  refine ⟨fun s0 s h => ?_, fun s0 s h => ?_, fun ops s s2 hclear hops hrun => ?_⟩
  · obtain ⟨t, ht, -, hcleared, -⟩ := rxGetClickReadsAndClearsOneBit side b s0 hb
    cases ht.symm.trans h
    exact hcleared
  · cases h
    cases side <;> exact BitVec.getLsbD_zero
  · obtain ⟨hall, -⟩ := runAll_eq_next.1 hrun
    obtain ⟨t, ht, hreturned, -⟩ := rxGetClickReadsAndClearsOneBit side b s2 hb
    refine ⟨t, ht, ?_⟩
    rw [hreturned, (execAll_storesButtons hops hall).click, hclear, Bool.false_or]

end Sys2Proof.Machine
end

section
/-! PROOFS. The statements of 60_exceptions.md: a well-formed instruction completes and any other is refused, so a step
or a run answers a next state exactly while no refusal is recorded, and what a run has shown is never taken back. -/

namespace Sys2Proof.Machine

/-! ### What completing and refusing do to the run (R108, R113) -/

/-- From `s` to `t` nothing was refused, and emitted bytes and returned values were at most added. -/
structure Completed (s t : State) : Prop where
  refusals : t.refusals = s.refusals
  out : s.out <+: t.out
  returned : s.returned <+: t.returned

/-- From `s` to `t` refusals, emitted bytes and returned values were at most added (R38, R108, R135). -/
structure RunGrows (s t : State) : Prop where
  refusals : s.refusals <+: t.refusals
  out : s.out <+: t.out
  returned : s.returned <+: t.returned

theorem Completed.of_afterTx (s : State) (tx : TxRegs) (bytes : List Byte) : Completed s (s.afterTx tx bytes []) :=
  ⟨List.append_nil _, List.prefix_append .., List.prefix_rfl⟩

theorem Completed.of_afterRx (s : State) (rx : RxRegs) (values : List ReturnValue) :
    Completed s (s.afterRx rx values []) :=
  ⟨List.append_nil _, List.prefix_rfl, List.prefix_append ..⟩

/-- Writing registers and moving the queue shows nothing. -/
theorem Completed.of_registers (s : State) (tx : TxRegs) (rx : RxRegs) (inputs : List HostInput) :
    Completed s { s with tx := tx, rx := rx, inputs := inputs } :=
  ⟨rfl, List.prefix_rfl, List.prefix_rfl⟩

theorem Completed.of_returnValue (s : State) (rx : RxRegs) (v : ReturnValue) :
    Completed s (returnValue v { s with rx := rx }) :=
  ⟨rfl, List.prefix_rfl, List.prefix_append ..⟩

theorem Completed.runGrows {s t : State} (h : Completed s t) : RunGrows s t :=
  ⟨h.refusals ▸ List.prefix_rfl, h.out, h.returned⟩

theorem RunGrows.of_refuse (s : State) (inputs : List HostInput) (r : RefuseReason) (w : CmdWord)
    (v : Option Analog) : RunGrows s (refuse r w v { s with inputs := inputs }) :=
  ⟨List.prefix_append .., List.prefix_rfl, List.prefix_rfl⟩

/-- A tick completes, whichever step of R82 applies. -/
theorem completed_updateOp (now : Time) (s : State) : Completed s (updateOp now s) := by
  obtain ⟨tx, bytes, h⟩ := updateOp_local now s.tx
  exact h s rfl ▸ .of_afterTx s tx bytes

/-! ### A well-formed instruction completes, any other is refused (R60, R108, R113) -/

theorem ButtonId.wellFormed_of_le {b : ButtonId} (h : b.toNat ≤ 5) : ButtonId.wellFormed b = true :=
  decide_eq_true h

theorem ButtonId.not_wellFormed_of_lt {b : ButtonId} (h : 5 < b.toNat) : ButtonId.wellFormed b = false :=
  decide_eq_false (Nat.not_le.2 h)

/-- An instruction is well formed and completes, or is ill formed and does nothing but record one refusal. -/
theorem exec_completed_or_refused {i : Instr} {s t : State} (h : exec i s = .next t) :
    (i.wellFormed = true ∧ Completed s t) ∨ (i.wellFormed = false ∧ ∃ r w v, t = refuse r w v s) := by
  cases i with
  | txSetJoy side a v =>
    obtain ⟨hv, rfl⟩ | ⟨hv, -, rfl⟩ | ⟨hv, -, rfl⟩ := exec_txSetJoy_cases h
    · exact .inr ⟨decide_eq_false fun ⟨hlow, hhigh⟩ => hv.elim hlow.not_gt hhigh.not_gt, _, _, _, rfl⟩
    · exact .inl ⟨decide_eq_true hv, .of_registers ..⟩
    · exact .inl ⟨decide_eq_true hv, .of_registers ..⟩
  | txSetTrig side v =>
    obtain ⟨hv, rfl⟩ | ⟨hv, -, rfl⟩ | ⟨hv, -, rfl⟩ := exec_txSetTrig_cases h
    · exact .inr ⟨decide_eq_false fun ⟨hlow, hhigh⟩ => hv.elim hlow.not_gt hhigh.not_gt, _, _, _, rfl⟩
    · exact .inl ⟨decide_eq_true hv, .of_registers ..⟩
    · exact .inl ⟨decide_eq_true hv, .of_registers ..⟩
  | txSetBtn side b p =>
    obtain ⟨hb, rfl⟩ | ⟨hb, -, rfl⟩ | ⟨hb, -, rfl⟩ := exec_txSetBtn_cases h
    · exact .inr ⟨ButtonId.not_wellFormed_of_lt hb, _, _, _, rfl⟩
    · exact .inl ⟨ButtonId.wellFormed_of_le hb, .of_registers ..⟩
    · exact .inl ⟨ButtonId.wellFormed_of_le hb, .of_registers ..⟩
  | rxGetBtn side b =>
    obtain ⟨hb, rfl⟩ | ⟨hb, rfl⟩ := exec_rxGetBtn_cases h
    · exact .inr ⟨ButtonId.not_wellFormed_of_lt hb, _, _, _, rfl⟩
    · exact .inl ⟨ButtonId.wellFormed_of_le hb, .of_returnValue ..⟩
  | rxGetClick side b =>
    obtain ⟨hb, rfl⟩ | ⟨hb, rfl⟩ := exec_rxGetClick_cases h
    · exact .inr ⟨ButtonId.not_wellFormed_of_lt hb, _, _, _, rfl⟩
    · exact .inl ⟨ButtonId.wellFormed_of_le hb, .of_returnValue ..⟩
  | txUpdate now => cases h; exact .inl ⟨rfl, completed_updateOp now s⟩
  | send now => cases h; exact .inl ⟨rfl, sendOp_eq_afterTx now s ▸ .of_afterTx ..⟩
  | fullSend now => cases h; exact .inl ⟨rfl, fullSendOp_eq_afterTx now s ▸ .of_afterTx ..⟩
  | rxConnected now bytes => cases h; exact .inl ⟨rfl, .of_returnValue ..⟩
  | rxGetJoy side a => cases h; exact .inl ⟨rfl, .of_returnValue ..⟩
  | rxGetTrig side => cases h; exact .inl ⟨rfl, .of_returnValue ..⟩
  | reset u => cases h; cases u <;> exact .inl ⟨rfl, .of_registers ..⟩
  | reservedOp0 | reservedOp5 | reservedOp6 | reservedOp7 | reservedOpE | reservedOpF =>
    cases h; exact .inr ⟨rfl, _, _, _, rfl⟩
  | _ => cases h; exact .inl ⟨rfl, .of_registers ..⟩

theorem exec_runGrows {i : Instr} {s t : State} (h : exec i s = .next t) : RunGrows s t := by
  obtain ⟨-, hc⟩ | ⟨-, r, w, v, rfl⟩ := exec_completed_or_refused h
  · exact hc.runGrows
  · exact .of_refuse s s.inputs r w v

/-- An instruction leaves the run unmarked exactly when it was unmarked before and the instruction is well formed. -/
theorem exec_refusals_eq_nil_iff {i : Instr} {s t : State} (h : exec i s = .next t) :
    t.refusals = [] ↔ s.refusals = [] ∧ i.wellFormed = true := by
  obtain ⟨hwf, hc⟩ | ⟨hwf, r, w, v, rfl⟩ := exec_completed_or_refused h
  · simp [hc.refusals, hwf]
  · simp [hwf]

/-- Along a list of instructions the run stays unmarked exactly when each of them is well formed. -/
theorem execAll_refusals_eq_nil_iff {ops : List Instr} {s t : State} (h : execAll ops s = .next t) :
    t.refusals = [] ↔ s.refusals = [] ∧ ∀ i ∈ ops, i.wellFormed = true := by
  induction ops generalizing s with
  | nil => cases h; simp
  | cons i is ih =>
    obtain ⟨s', hs'⟩ := exec_isNext i s
    rw [execAll_cons hs'] at h
    rw [ih h, exec_refusals_eq_nil_iff hs', List.forall_mem_cons, and_assoc]

/-- Settles O51: each instruction completes or is refused, and along the list the run stays unmarked exactly when it
was and none is refused. -/
theorem refusedExactlyWhenIllFormed : Obligations.RefusedExactlyWhenIllFormed := by
  refine ⟨fun i s t h => ?_, fun ops s => ?_⟩
  · obtain ⟨hwf, hc⟩ | ⟨hwf, r, w, v, rfl⟩ := exec_completed_or_refused h
    · exact ⟨fun _ => hc.refusals, fun hill => absurd (hwf.symm.trans hill) (by decide)⟩
    · exact ⟨fun hok => absurd (hok.symm.trans hwf) (by decide), fun _ => ⟨_, rfl⟩⟩
  · obtain ⟨t, ht⟩ := execAll_isNext ops s
    have hrun : runAll ops s = if t.refusals = [] then .next t else .refused (.runRefused t) := by
      rw [runAll, ht, inRun_next]
    have hiff := execAll_refusals_eq_nil_iff ht
    refine ⟨t, fun hok => hrun.trans (if_pos (hiff.2 hok)), fun hill => hrun.trans (if_neg fun hnil => ?_)⟩
    obtain ⟨hs, hall⟩ := hiff.1 hnil
    obtain hmarked | ⟨i, hi, hwf⟩ := hill
    · exact hmarked hs
    · exact absurd ((hall i hi).symm.trans hwf) (by decide)

/-! ### The state that a step comes to (R35, R60, R93, R119) -/

theorem step_of_noInput {s : State} (hin : s.inputs = []) : step s = inRun (.next s) := by
  simp only [step, fetch, hin]

theorem step_of_emptyDelivery {s : State} {input : HostInput} {inputs : List HostInput}
    (hin : s.inputs = input :: inputs) (hdec : decodeInput (rxRole s.rx) input = .empty) :
    step s = inRun (.next { s with inputs := inputs }) := by
  simp only [step, fetch, hin, hdec]

theorem step_of_refusedWord {s : State} {input : HostInput} {inputs : List HostInput} {r : RefuseReason}
    (hin : s.inputs = input :: inputs) (hdec : decodeInput (rxRole s.rx) input = .refused r) :
    step s = inRun (.next (refuse r (inputWord input) none { s with inputs := inputs })) := by
  simp only [step, fetch, hin, hdec]

/-- Settles O8: the step takes at most the delivery, and the outcome is what the run makes of that state. -/
theorem nothingIssuedChangesNothing : Obligations.NothingIssuedChangesNothing :=
  fun s => ⟨fun hin => (step_of_noInput hin).trans (inRun_next s),
    fun inputs hin => (step_of_emptyDelivery hin rfl).trans (inRun_next { s with inputs := inputs })⟩

/-- The state that a step from `s` comes to, by what its next input decodes to. -/
inductive StepsTo (s : State) : State → Prop where
  | noInput (hin : s.inputs = []) : StepsTo s s
  | emptyDelivery {input : HostInput} {inputs : List HostInput} (hin : s.inputs = input :: inputs)
      (hdec : decodeInput (rxRole s.rx) input = .empty) : StepsTo s { s with inputs := inputs }
  | refusedWord {input : HostInput} {inputs : List HostInput} {r : RefuseReason} (hin : s.inputs = input :: inputs)
      (hdec : decodeInput (rxRole s.rx) input = .refused r) :
      StepsTo s (refuse r (inputWord input) none { s with inputs := inputs })
  | instr {input : HostInput} {inputs : List HostInput} {i : Instr} {more : List Byte} {t : State}
      (hin : s.inputs = input :: inputs) (hdec : decodeInput (rxRole s.rx) input = .instr i more)
      (hexec : exec i { s with inputs := if more = [] then inputs else .wire more :: inputs } = .next t) : StepsTo s t

/-- A step's outcome is what the run makes of a state that the step comes to (R108). -/
theorem step_eq_inRun_stepsTo (s : State) : ∃ t, StepsTo s t ∧ step s = inRun (.next t) := by
  cases hin : s.inputs with
  | nil => exact ⟨s, .noInput hin, step_of_noInput hin⟩
  | cons input inputs =>
    cases hdec : decodeInput (rxRole s.rx) input with
    | empty => exact ⟨_, .emptyDelivery hin hdec, step_of_emptyDelivery hin hdec⟩
    | refused r => exact ⟨_, .refusedWord hin hdec, step_of_refusedWord hin hdec⟩
    | instr i more =>
      obtain ⟨t, ht⟩ := exec_isNext i { s with inputs := if more = [] then inputs else .wire more :: inputs }
      exact ⟨t, .instr hin hdec ht, ht ▸ step_of_fetch_run (fetch_of_decodeInput hin hdec)⟩

/-! ### What a run has shown is never taken back (R38, R108, R135) -/

theorem StepsTo.runGrows {s t : State} (h : StepsTo s t) : RunGrows s t := by
  cases h with
  | noInput hin => exact (Completed.of_registers s s.tx s.rx s.inputs).runGrows
  | emptyDelivery hin hdec => exact (Completed.of_registers s s.tx s.rx _).runGrows
  | refusedWord hin hdec => exact .of_refuse ..
  | instr hin hdec hexec =>
    obtain ⟨hrefusals, hout, hreturned⟩ := exec_runGrows hexec
    exact ⟨hrefusals, hout, hreturned⟩

/-- The outcome in a run tells the state it was made of. -/
theorem eq_of_inRun_next {t u : State}
    (h : inRun (.next u) = .next t ∨ inRun (.next u) = .refused (.runRefused t)) : u = t := by
  rw [inRun_next] at h
  split at h <;> simpa using h

/-- Settles O50: the step's state extends what the run has shown, and its mark decides the outcome. -/
theorem refusalMarkIsNeverCleared : Obligations.RefusalMarkIsNeverCleared := by
  intro s t h
  obtain ⟨u, hu, hstep⟩ := step_eq_inRun_stepsTo s
  rw [hstep] at h ⊢
  obtain rfl := eq_of_inRun_next h
  obtain ⟨hrefusals, hout, hreturned⟩ := hu.runGrows
  refine ⟨hrefusals, hout, hreturned, ?_, fun hmarked => ?_⟩
  · simp [inRun_eq_next, State.notRefused]
  · exact (inRun_next u).trans (if_neg (hrefusals.ne_nil hmarked))

/-! ### A step ends without a fault (R107, R120) -/

/-- Settles O49: the state that a step comes to is unmarked unless the run was marked, the next input was refused, or
its instruction was ill formed. -/
theorem everyStepEndsWithoutAFault : Obligations.EveryStepEndsWithoutAFault := by
  intro s
  obtain ⟨t, ht, hstep⟩ := step_eq_inRun_stepsTo s
  rw [hstep, inRun_next]
  refine ⟨t, ?_, fun hs hnext => if_pos ?_⟩
  · split
    · exact .inl rfl
    · exact .inr rfl
  · cases ht with
    | noInput hin => exact hs
    | emptyDelivery hin hdec => exact hs
    | refusedWord hin hdec =>
      obtain ⟨-, haccepted⟩ := hnext _ _ hin
      exact absurd hdec (haccepted _)
    | instr hin hdec hexec =>
      obtain ⟨hwf, -⟩ := hnext _ _ hin
      exact (exec_refusals_eq_nil_iff hexec).2 ⟨hs, hwf _ _ hdec⟩

end Sys2Proof.Machine
end

section
/-! PROOFS. The statement of 70_reset_and_hazards.md: reset of a unit. -/

namespace Sys2Proof.Machine

/-! ### Reset of a unit (R34, R121) -/

/-- RESET TX replaces the TX registers by the reset value of TX, whole (R121). -/
theorem exec_reset_tx (s : State) : exec (.reset .tx) s = .next { s with tx := TxRegs.reset } := rfl

/-- RESET RX replaces the RX registers by the reset value of RX, whole (R121). -/
theorem exec_reset_rx (s : State) : exec (.reset .rx) s = .next { s with rx := RxRegs.reset } := rfl

/-- Settles O47, unit by unit: `TxRegs.reset` and `RxRegs.reset` hold R34's values register by register. -/
theorem resetSetsEveryRegisterOfItsUnit : Obligations.ResetSetsEveryRegisterOfItsUnit :=
  fun s => ⟨exec_reset_tx s, exec_reset_rx s⟩

end Sys2Proof.Machine
end
